-- ==== Sys2Proof/Word.lean ====
section
/-! DEFINITION. The word types of the unit (spec/00_scope.md R9, R10; spec/40_bigint.md R120, R130). -/

namespace Sys2Proof

/-- A byte of `DBUF`, `DOUT` or of an XOF answer (R11). -/
abbrev Byte := BitVec 8

/-- A host bus word and a command word: 32 bits (R8 `BUS_BITS`, `CMD_BITS`). -/
abbrev Word := BitVec 32

/-- A BigInt256, an integer in [0, 2^256) (R9, R120). -/
abbrev BigInt256 := BitVec 256

/-- A BigInt512, an integer in [0, 2^512) (R9, R130). -/
abbrev BigInt512 := BitVec 512

/-- A field element, held as its canonical integer in a 256-bit place (R3, R21).  That the integer
is below p is the invariant of R22, stated as `State.Canonical` in Safety.lean. -/
abbrev Elem := BigInt256

end Sys2Proof
end

