-- ==== Sys2Proof/Config.lean ====
section
/-! DEFINITION. The parameters of the unit: the constants of spec/00_scope.md R7 and R8, and the two
choices the spec leaves to the implementation as named parameters (spec/93 U9, U14). -/

namespace Sys2Proof

/-- The field modulus p = 2^255 − 19 (R7 `P`). -/
def P : Nat := 0x7fffffffffffffffffffffffffffffffffffffffffffffffffffffffffffffed

/-- p as a BigInt256. -/
def pWord : BigInt256 := 0x7fffffffffffffffffffffffffffffffffffffffffffffffffffffffffffffed#256

/-- The S-box exponent (R7 `ALPHA`, R222). -/
def ALPHA : Nat := 5

/-- The inverse S-box exponent 5⁻¹ mod (p−1) (R7 `ALPHA_INV`, R223). -/
def ALPHA_INV : BigInt256 := 0x4cccccccccccccccccccccccccccccccccccccccccccccccccccccccccccccc1#256

/-- Size in bytes of one XOF chunk decoded to one element (R7 `WIDE_BYTES`). -/
def WIDE_BYTES : Nat := 48

/-- Size in bytes of the shared secret (R7 `SECRET_BYTES`). -/
def SECRET_BYTES : Nat := 32

/-- Size in bytes of the nonce (R7 `NONCE_BYTES`). -/
def NONCE_BYTES : Nat := 16

/-- Size in bytes of a serialised element (R7 `ELEM_BYTES`). -/
def ELEM_BYTES : Nat := 32

/-- The cipher block size b (R7 `B`, R310). -/
def BLOCK : Nat := 5

/-- Cap of the hash-mode round search (R7 `L1_CAP`, R227). -/
def L1_CAP : Nat := 23

/-- Smallest and largest state size of a descriptor (R8 `M_MIN`, `M_MAX`). -/
def M_MIN : Nat := 2
/-- See `M_MIN`. -/
def M_MAX : Nat := 12

/-- One answer of a substituted XOF companion: the bytes it gives for one request. -/
structure XofAnswer where
  seed  : List Byte
  n     : Nat
  bytes : List Byte
  deriving DecidableEq, Repr

/-- The XOF companion as a parameter (R75, R45, spec/93 U14).  `shake256` is the function the spec
requires; `table` is any other companion, written as plain data: the answers it gives, a request that
no entry names being answered `fail`. -/
inductive Xof where
  | shake256
  | table (answers : List XofAnswer)
  deriving DecidableEq, Repr

/-- What an integrator fixes once: the XOF companion (U14) and whether `PDRDK` may read the subkeys
of a cipher-mode slot (U9 `PDRDK_CIPHER_READABLE`). -/
structure Config where
  xof                 : Xof
  pdrdkCipherReadable : Bool
  deriving DecidableEq, Repr

/-- The configuration the spec names: XOF = SHAKE256 (R75) and `PDRDK_CIPHER_READABLE` = true (U9). -/
def Config.spec : Config := { xof := .shake256, pdrdkCipherReadable := true }

end Sys2Proof
end

