-- ==== Sys2Proof/Machine/Bytes.lean ====
section
/-! DEFINITION. Byte sequences as little-endian numbers (spec/00_scope.md R11, spec/20_memory.md R60,
R61). -/

namespace Sys2Proof.Machine

/-- `le(bs)` = Σ bs[i]·2^(8i) (R11). -/
def leNat : List Byte → Nat
  | [] => 0
  | b :: bs => b.toNat + 256 * leNat bs

/-- `le_bytes(v, n)`: the n bytes of v, byte 0 the least significant (R11). -/
def leBytes : Nat → Nat → List Byte
  | 0, _ => []
  | n + 1, v => BitVec.ofNat 8 v :: leBytes n (v / 256)

/-- The decimal digits of v, most significant first, as ASCII bytes, put before `acc`; `fuel` bounds
their number. -/
def decimalDigits : Nat → Nat → List Byte → List Byte
  | 0, _, acc => acc
  | fuel + 1, v, acc =>
    let acc' := BitVec.ofNat 8 (48 + v % 10) :: acc
    if v < 10 then acc' else decimalDigits fuel (v / 10) acc'

/-- v in decimal, no sign, no leading zeros, as ASCII bytes (R238), for v below 10^80. -/
def decimal (v : Nat) : List Byte := decimalDigits 80 v []

/-- Byte i of a 32-bit bus word, byte 0 in bits 7:0 (R61). -/
def wordByte (v : Word) (i : Nat) : Byte := v.extractLsb' (8 * i) 8

/-- The bus word made of four bytes, the first in bits 7:0 (R61, R68). -/
def wordOfBytes (b0 b1 b2 b3 : Byte) : Word := b3 ++ b2 ++ b1 ++ b0

end Sys2Proof.Machine
end

