-- ==== Sys2Proof/Machine/BigInt.lean ====
section
/-! DEFINITION. BigInt256 and the widening operations (spec/40_bigint.md R120 to R132) and the
constant-time select (spec/00_scope.md R16). -/

namespace Sys2Proof.Machine

/-- `limb(a, i)`, bits 64i+63 : 64i; limb 0 is the least significant (R120, R127). -/
def limb (a : BigInt256) (i : Fin 4) : BitVec 64 := a.extractLsb' (64 * i.val) 64

/-- `add_with_carry(a, b)`: the sum modulo 2^256 and the carry out (R121). -/
def addWithCarry (a b : BigInt256) : BigInt256 × Bool :=
  (a + b, decide (2 ^ 256 ≤ a.toNat + b.toNat))

/-- `sub_with_borrow(a, b)`: the difference modulo 2^256 and the borrow out (R122). -/
def subWithBorrow (a b : BigInt256) : BigInt256 × Bool :=
  (a - b, decide (a.toNat < b.toNat))

/-- `eq(a, b)`, computed as OR of XORs (R123). -/
def bigEq (a b : BigInt256) : Bool :=
  ((limb a 0 ^^^ limb b 0) ||| (limb a 1 ^^^ limb b 1) ||| (limb a 2 ^^^ limb b 2)
    ||| (limb a 3 ^^^ limb b 3)) == 0

/-- `lt(a, b)`: the borrow of the difference (R124). -/
def bigLt (a b : BigInt256) : Bool := (subWithBorrow a b).2
/-- `ge(a, b)` (R124). -/
def bigGe (a b : BigInt256) : Bool := !bigLt a b
/-- `gt(a, b)` (R124). -/
def bigGt (a b : BigInt256) : Bool := bigLt b a
/-- `le(a, b)` (R124). -/
def bigLe (a b : BigInt256) : Bool := !bigLt b a

/-- `and(a, b)` (R125). -/
def bigAnd (a b : BigInt256) : BigInt256 := a &&& b
/-- `or(a, b)` (R125). -/
def bigOr (a b : BigInt256) : BigInt256 := a ||| b
/-- `xor(a, b)` (R125). -/
def bigXor (a b : BigInt256) : BigInt256 := a ^^^ b
/-- `not(a)` (R125). -/
def bigNot (a : BigInt256) : BigInt256 := ~~~a

/-- `mask(c)`: all 256 bits equal to c (R16). -/
def mask (c : Bool) : BigInt256 := if c then BitVec.allOnes 256 else 0#256

/-- `select(c, a, b)`: a if c = 1, else b (R16). -/
def select (c : Bool) (a b : BigInt256) : BigInt256 := if c then a else b

/-- The masked form of `select` the document requires of an implementation (R16, R125). -/
def maskedSelect (c : Bool) (u v : BigInt256) : BigInt256 :=
  bigOr (bigAnd (mask c) u) (bigAnd (bigNot (mask c)) v)

/-- `shl(a, n)` for n < 256 (R126).  The source gives no meaning to a larger n (U4), and the type
admits none. -/
def shl (a : BigInt256) (n : Fin 256) : BigInt256 := a <<< n.val
/-- `shr(a, n)` for n < 256, logical (R126). -/
def shr (a : BigInt256) (n : Fin 256) : BigInt256 := a >>> n.val

/-- `bit(a, i)` for i < 256 (R127). -/
def bit (a : BigInt256) (i : Fin 256) : Bool := a[i.val]
/-- `set_bit(a, i)` (R127). -/
def setBit (a : BigInt256) (i : Fin 256) : BigInt256 := bigOr a (1#256 <<< i.val)
/-- `clear_bit(a, i)` (R127). -/
def clearBit (a : BigInt256) (i : Fin 256) : BigInt256 := bigAnd a (bigNot (1#256 <<< i.val))

/-- The least n ≤ `fuel` with v < 2^n, counted by halving. -/
def halvings : Nat → Nat → Nat
  | 0, _ => 0
  | fuel + 1, v => if v = 0 then 0 else 1 + halvings fuel (v / 2)

/-- `bit_length(a)`, the least n with a < 2^n; 0 for 0 (R128, G4). -/
def bitLength (a : BigInt256) : Nat := halvings 256 a.toNat

/-- `to_le_bytes32(a)` (R129). -/
def toLeBytes32 (a : BigInt256) : List Byte := leBytes 32 a.toNat
/-- `from_le_bytes32(bs)`, no reduction (R129). -/
def fromLeBytes32 (bs : List Byte) : BigInt256 := BitVec.ofNat 256 (leNat bs)

/-- `low(X)` (R130). -/
def low512 (x : BigInt512) : BigInt256 := x.setWidth 256
/-- `high(X)` (R130). -/
def high512 (x : BigInt512) : BigInt256 := x.extractLsb' 256 256

/-- `mul_wide(a, b)`: the exact product (R131). -/
def mulWide (a b : BigInt256) : BigInt512 := a.setWidth 512 * b.setWidth 512

/-- `sqr_wide(a)` by the document's method: the cross products of the upper triangle once, doubled,
plus the diagonal squares (R132). -/
def sqrWide (a : BigInt256) : BigInt512 :=
  let l (i : Fin 4) : Nat := (limb a i).toNat
  let diagonal := l 0 * l 0 + l 1 * l 1 * 2 ^ 128 + l 2 * l 2 * 2 ^ 256 + l 3 * l 3 * 2 ^ 384
  let cross := l 0 * l 1 * 2 ^ 64 + l 0 * l 2 * 2 ^ 128 + l 0 * l 3 * 2 ^ 192
    + l 1 * l 2 * 2 ^ 192 + l 1 * l 3 * 2 ^ 256 + l 2 * l 3 * 2 ^ 320
  BitVec.ofNat 512 (diagonal + 2 * cross)

end Sys2Proof.Machine
end

