-- ==== Sys2Proof/Machine/Errors.lean ====
section
/-! DEFINITION. The error kinds of the unit and their codes (spec/60_exceptions.md R340, R350). -/

namespace Sys2Proof.Machine

/-- The kinds of command error (R350): five of the document and the spec's `IllegalCommand`. -/
inductive ErrKind where
  /-- R342. -/
  | invalidInput
  /-- R343. -/
  | indexOutOfRange
  /-- R344. -/
  | dimensionMismatch
  /-- R345. -/
  | operationError
  /-- R346. -/
  | overflow
  /-- R347. -/
  | illegalCommand
  deriving DecidableEq, Repr

/-- The code `ERRCODE` records (R350); 0 is "none" and 7 is never produced. -/
def ErrKind.code : ErrKind → BitVec 3
  | .invalidInput => 1
  | .indexOutOfRange => 2
  | .dimensionMismatch => 3
  | .operationError => 4
  | .overflow => 5
  | .illegalCommand => 6

end Sys2Proof.Machine
end

