-- ==== Sys2Proof/Machine/FieldFp.lean ====
section
/-! DEFINITION. Field arithmetic in F_p, by the document's procedures (spec/41_field.md R150 to R168).
Each procedure's value is a theorem, not a definition: on arguments below p it is the canonical
residue of the integer operation (R150). -/

namespace Sys2Proof.Machine

/-- v − p if v ≥ p, else v: one conditional subtraction (R155, R158). -/
def condSub (v : BigInt256) : BigInt256 :=
  let (d, borrow) := subWithBorrow v pWord
  select borrow v d

/-- `fadd(a, b)` (R151). -/
def fadd (a b : Elem) : Elem :=
  let (s, c) := addWithCarry a b
  let (d, bw) := subWithBorrow s pWord
  select (c || !bw) d s

/-- `fsub(a, b)` (R152). -/
def fsub (a b : Elem) : Elem :=
  let (d, bw) := subWithBorrow a b
  select bw (addWithCarry d pWord).1 d

/-- `fneg(a)` (R153). -/
def fneg (a : Elem) : Elem := select (bigEq a 0#256) 0#256 (subWithBorrow pWord a).1

/-- `feq(a, b)` (R154). -/
def feq (a b : Elem) : Bool := bigEq a b

/-- The reducing constructor on a 256-bit value: v mod p, since v < 2^256 = 2p + 38 (R155). -/
def reduce256 (v : BigInt256) : Elem := condSub (condSub v)

/-- `from_bytes_le(bs)`: at most 32 bytes, zero-padded high, reduced modulo p (R155). -/
def fromBytesLe (bs : List Byte) : Except ErrKind Elem :=
  if 32 < bs.length then .error .invalidInput else .ok (reduce256 (fromLeBytes32 bs))

/-- `to_bytes_le(a)`: 32 bytes (R156). -/
def toBytesLe (a : Elem) : List Byte := toLeBytes32 a

/-- `wide_reduce(bs)` for 48 bytes: (low mod p) + 38·high by the field add (R157). -/
def wideReduce (bs : List Byte) : Elem :=
  let x := leNat bs
  fadd (reduce256 (BitVec.ofNat 256 x)) (BitVec.ofNat 256 (38 * (x / 2 ^ 256)))

/-- `reduce_512(X)`: fold by 38 twice, then at most two conditional subtractions (R158). -/
def reduce512 (x : BigInt512) : Elem :=
  let t := (low512 x).toNat + 38 * (high512 x).toNat
  let u := t % 2 ^ 256 + 38 * (t / 2 ^ 256)
  let v := u % 2 ^ 256 + 38 * (u / 2 ^ 256)
  condSub (condSub (BitVec.ofNat 256 v))

/-- `fmul(a, b)` (R159). -/
def fmul (a b : Elem) : Elem := reduce512 (mulWide a b)

/-- `fsqr(a)` (R160). -/
def fsqr (a : Elem) : Elem := reduce512 (sqrWide a)

/-- `pow5(a)` = sqr(sqr(a))·a (R161). -/
def pow5 (a : Elem) : Elem := fmul (fsqr (fsqr a)) a

/-- `sqn(z, n)`: z squared n times (R163). -/
def sqn (z : Elem) : Nat → Elem
  | 0 => z
  | n + 1 => sqn (fsqr z) n

/-- The inversion addition chain, a^(p−2) (R163). -/
def inversionChain (a : Elem) : Elem :=
  let a2 := fsqr a
  let t2 := fmul a2 a
  let t4 := fmul (sqn t2 2) t2
  let t5 := fmul (sqn t4 1) a
  let t10 := fmul (sqn t5 5) t5
  let t20 := fmul (sqn t10 10) t10
  let t40 := fmul (sqn t20 20) t20
  let t50 := fmul (sqn t40 10) t10
  let t100 := fmul (sqn t50 50) t50
  let t200 := fmul (sqn t100 100) t100
  let t250 := fmul (sqn t200 50) t50
  let a11 := fmul (sqn a2 2) t2
  fmul (sqn t250 5) a11

/-- `finv(a)`: `InvalidInput` for 0, else a^(p−2) (R162). -/
def finv (a : Elem) : Except ErrKind Elem :=
  if bigEq a 0#256 then .error .invalidInput else .ok (inversionChain a)

/-- `ladder_step(r0, r1, b)` (R164). -/
def ladderStep (r : Elem × Elem) (b : Bool) : Elem × Elem :=
  let m := fmul r.1 r.2
  let s0 := fsqr r.1
  let s1 := fsqr r.2
  (select b m s0, select b s1 m)

/-- The ladder over the bits n−1 down to 0 of the exponent e (R167, R168). -/
def ladder {w : Nat} (e : BitVec w) : (n : Nat) → n ≤ w → Elem × Elem → Elem × Elem
  | 0, _, r => r
  | n + 1, h, r => ladder e n (Nat.le_of_succ_le h) (ladderStep r e[n])

/-- `pow(base, e)`: the ladder over exactly 255 bits from (1, base) (R167). -/
def pow (base : Elem) (e : BigInt256) : Elem := (ladder e 255 (by decide) (1#256, base)).1

/-- `pow_u64(base, e)`: the ladder over exactly 64 bits (R168). -/
def powU64 (base : Elem) (e : BitVec 64) : Elem := (ladder e 64 (Nat.le_refl 64) (1#256, base)).1

end Sys2Proof.Machine
end

