-- ==== Sys2Proof/Machine/Matrix.lean ====
section
/-! DEFINITION. Matrix operations over F_p (spec/42_matrix.md R200 to R208).  `Matrix` and its
operations are the document's general forms; the unit itself works on columns of m elements and on
m×m matrices held as the list of their rows, which is what `matvec`, `vadd`, `vsub` and `detRows`
take. -/

namespace Sys2Proof.Machine

/-- A column of field elements, index 0 first (R17, R200). -/
abbrev Column := List Elem

/-- An m×m matrix as the list of its rows (R17). -/
abbrev Rows := List (List Elem)

/-- A matrix in row-major storage (R200). -/
structure Matrix where
  rows : Nat
  cols : Nat
  data : List Elem
  deriving DecidableEq, Repr

/-- The storage invariant `data.len() == rows*cols` (R200). -/
def Matrix.wf (a : Matrix) : Bool := a.data.length == a.rows * a.cols

/-- Entry (i, j) is `data[i·cols + j]` (R200). -/
def Matrix.entry (a : Matrix) (i j : Nat) : Elem := a.data.getD (i * a.cols + j) 0#256

/-- The matrix with the given shape and entries, row by row (R200). -/
def Matrix.build (rows cols : Nat) (f : Nat → Nat → Elem) : Matrix :=
  { rows, cols, data := (List.range rows).flatMap fun i => (List.range cols).map fun j => f i j }

/-- A column vector of length m is the matrix (m, 1, data) (R200). -/
def Matrix.ofColumn (v : Column) : Matrix := { rows := v.length, cols := 1, data := v }

/-- The square matrix whose rows are given (R17, R200). -/
def Matrix.ofRows (m : Rows) : Matrix :=
  { rows := m.length, cols := (m.headD []).length, data := m.flatten }

/-- The rows of a matrix, each of width `cols` (R206). -/
def Matrix.toRows (a : Matrix) : Rows :=
  (List.range a.rows).map fun i => (List.range a.cols).map fun j => a.entry i j

/-- `mget(A, i, j)` (R201). -/
def mget (a : Matrix) (i j : Nat) : Except ErrKind Elem :=
  if a.rows ≤ i ∨ a.cols ≤ j then .error .indexOutOfRange else .ok (a.entry i j)

/-- `mset(A, i, j, v)` (R201). -/
def mset (a : Matrix) (i j : Nat) (v : Elem) : Except ErrKind Matrix :=
  if a.rows ≤ i ∨ a.cols ≤ j then .error .indexOutOfRange
  else .ok { a with data := a.data.set (i * a.cols + j) v }

/-- The accumulator loop of a matrix product: Σ over t of `f t · g t`, from t = 0 (R202). -/
def sumProducts (n : Nat) (f g : Nat → Elem) : Elem :=
  (List.range n).foldl (fun acc t => fadd acc (fmul (f t) (g t))) 0#256

/-- `matmul(A, B)` (R202). -/
def matmul (a b : Matrix) : Except ErrKind Matrix :=
  if a.cols ≠ b.rows then .error .dimensionMismatch
  else .ok (Matrix.build a.rows b.cols fun i j =>
    sumProducts a.cols (fun t => a.entry i t) (fun t => b.entry t j))

/-- `madd(A, B)` (R204). -/
def madd (a b : Matrix) : Except ErrKind Matrix :=
  if a.rows ≠ b.rows ∨ a.cols ≠ b.cols then .error .dimensionMismatch
  else .ok { a with data := List.zipWith fadd a.data b.data }

/-- `msub(A, B)`, A minus B (R204). -/
def msub (a b : Matrix) : Except ErrKind Matrix :=
  if a.rows ≠ b.rows ∨ a.cols ≠ b.cols then .error .dimensionMismatch
  else .ok { a with data := List.zipWith fsub a.data b.data }

/-- `mpow(A, e)`: each entry to the power e (R205). -/
def mpow (a : Matrix) (e : BigInt256) : Matrix :=
  { a with data := a.data.map fun x => pow x e }

/-- Σ over j of row[j]·v[j], accumulated from j = 0 (R202, R203). -/
def dot (row v : List Elem) : Elem := (List.zipWith fmul row v).foldl fadd 0#256

/-- `matvec(M, v)` (R203). -/
def matvec (m : Rows) (v : Column) : Column := m.map fun row => dot row v

/-- `madd` of two columns of one length (R204). -/
def vadd (a b : Column) : Column := List.zipWith fadd a b

/-- `msub` of two columns of one length (R204). -/
def vsub (a b : Column) : Column := List.zipWith fsub a b

/-- Split the rows at the first one whose first entry is not 0: the rows before it, itself, the rows
after it (R206). -/
def splitPivot : Rows → Option (Rows × List Elem × Rows)
  | [] => none
  | r :: rs =>
    if bigEq (r.headD 0#256) 0#256 then
      (splitPivot rs).map fun (before, pivot, after) => (r :: before, pivot, after)
    else some ([], r, rs)

/-- r − r[0]·pn with its first entry, now 0, dropped (R206). -/
def eliminate (pn r : List Elem) : List Elem :=
  (List.zipWith (fun a b => fsub a (fmul (r.headD 0#256) b)) r pn).tail

/-- The determinant loop on rows of width n with the running determinant d (R206); the surviving rows
keep their order and d is negated when the pivot's position q is odd (R207). -/
def detRows : Nat → Elem → Rows → Elem
  | 0, d, _ => d
  | n + 1, d, rows =>
    match splitPivot rows with
    | none => 0#256
    | some (before, pivot, after) =>
      let p0 := pivot.headD 0#256
      let pn := pivot.map (fmul (inversionChain p0))
      let d' := fmul d p0
      detRows n (if before.length % 2 = 1 then fneg d' else d')
        ((before ++ after).map (eliminate pn))

/-- `det(A)` (R206, R207). -/
def det (a : Matrix) : Except ErrKind Elem :=
  if a.rows ≠ a.cols then .error .invalidInput else .ok (detRows a.cols 1#256 a.toRows)

end Sys2Proof.Machine
end

