-- ==== Sys2Proof/Syntax.lean ====
section
/-! DEFINITION. The commands of the unit, one constructor per row of spec/opcode_table.json
(spec/30_encoding.md R100), with the operand fields of formats R, I, B, D, P (R91 to R95). -/

namespace Sys2Proof

/-- An element register number `x0` … `x15` (R98). -/
abbrev Reg := BitVec 4

/-- A descriptor slot, the field `k` (R94, R95, R99). -/
inductive Slot where
  | pd0
  | pd1
  deriving DecidableEq, Repr

/-- One command.  Field names are those of the R100 table; in `hinit` the digest length stands in
the field `i`. -/
inductive Instr where
  | nop
  | fzero (rd : Reg)
  | fone (rd : Reg)
  | fmov (rd ra : Reg)
  | fldi (rd : Reg) (imm16 : BitVec 16)
  | fld (rd : Reg) (len : BitVec 6)
  | fldw (rd : Reg) (len : BitVec 6)
  | fst (ra : Reg)
  | feq (ra rb : Reg)
  | fadd (rd ra rb : Reg)
  | fsub (rd ra rb : Reg)
  | fneg (rd ra : Reg)
  | fmul (rd ra rb : Reg)
  | fsqr (rd ra : Reg)
  | fpow5 (rd ra : Reg)
  | finv (rd ra : Reg)
  | fpow (rd ra rb : Reg)
  | fpowu (rd ra : Reg)
  | pdinitH (k : Slot) (m cap : BitVec 4)
  | pdinitC (k : Slot) (m : BitVec 4) (kb : Reg)
  | pdclr (k : Slot)
  | pdrdm (rd : Reg) (k : Slot) (i j : BitVec 4)
  | pdrdmi (rd : Reg) (k : Slot) (i j : BitVec 4)
  | pdrdk (rd : Reg) (k : Slot) (t : BitVec 7) (i : BitVec 4)
  | pdrdai (rd : Reg)
  | vzero
  | vld (i : BitVec 4) (ra : Reg)
  | vst (rd : Reg) (i : BitVec 4)
  | vaddk (k : Slot) (t : BitVec 7)
  | vsubk (k : Slot) (t : BitVec 7)
  | vpowa (k : Slot)
  | vpowai (k : Slot)
  | vmds (k : Slot)
  | vmdsi (k : Slot)
  | psub (k : Slot) (t : BitVec 7)
  | psubi (k : Slot) (t : BitVec 7)
  | perm (k : Slot)
  | permi (k : Slot)
  | hinit (k : Slot) (dlen : BitVec 4)
  | habs (ra : Reg)
  | hfin
  | hsqz (rd : Reg) (i : BitVec 4)
  | ckey (len : BitVec 6)
  | cnonce (len : BitVec 6)
  | cenc (rd ra : Reg)
  | cdec (rd ra : Reg)
  | cencb (ra : Reg)
  | cdecb (rd : Reg) (len : BitVec 6)
  deriving DecidableEq, Repr

end Sys2Proof
end

