-- ==== Sys2Proof/Machine/State.lean ====
section
/-! DEFINITION. The state of the unit (spec/10_state.md R20 to R44), what can stop a step, and the
state after reset. -/

namespace Sys2Proof.Machine

/-- The mode tag of a descriptor: 0 = Hash, 1 = Cipher (R27). -/
inductive Mode where
  | hash
  | cipher
  deriving DecidableEq, Repr

/-- The sponge phase `HPH`: 0 = IDLE, 1 = ABSORB, 2 = SQUEEZE; 3 is never taken (R29, R282). -/
inductive Phase where
  | idle
  | absorb
  | squeeze
  deriving DecidableEq, Repr

/-- A 12×12 table of elements (R27). -/
abbrev Table := Vector (Vector Elem 12) 12

/-- The subkey table `K[t][i]`, 0 ≤ t ≤ 70, 0 ≤ i < 12 (R27). -/
abbrev SubkeyTable := Vector (Vector Elem 12) 71

/-- One descriptor slot (R27). -/
structure Descriptor where
  /-- 1 after a successful construction, 0 after reset or `PDCLR`. -/
  valid : Bool
  mode : Mode
  /-- State size, 2 ≤ m ≤ 12 in a valid slot. -/
  m : BitVec 4
  /-- Capacity in hash mode, 0 in cipher mode. -/
  cap : BitVec 4
  /-- Round count N ≤ 35. -/
  n : BitVec 6
  mds : Table
  mdsi : Table
  k : SubkeyTable
  deriving DecidableEq, Repr

/-- A slot with `valid` = 0 and every other field and table entry 0 (R44, R246). -/
def Descriptor.cleared : Descriptor :=
  { valid := false
    mode := .hash
    m := 0
    cap := 0
    n := 0
    mds := Vector.replicate 12 (Vector.replicate 12 0#256)
    mdsi := Vector.replicate 12 (Vector.replicate 12 0#256)
    k := Vector.replicate 71 (Vector.replicate 12 0#256) }

/-- What the environment does next: the host's bus accesses (R14, R63), the platform's reset input
(R380), or a wait, in which the unit takes its turn.  DESIGN CHOICE: notes/assumptions/4.md. -/
inductive Event where
  /-- The host waits: the unit's turn. -/
  | wait
  /-- `MemRead(addr, n)`. -/
  | read (addr n : Nat)
  /-- `MemWrite(addr, n, v)`. -/
  | write (addr n : Nat) (v : Word)
  /-- The reset input is asserted and released. -/
  | hardReset
  deriving DecidableEq, Repr

/-- The state: the tuple of R20, and three fields of the model's own at its end. -/
structure State where
  /-- Element registers `x[0..15]` (R21). -/
  x : Vector Elem 16
  /-- State vector `S[0..11]` (R26). -/
  svec : Vector Elem 12
  /-- Slot `PD[0]` (R27). -/
  pd0 : Descriptor
  /-- Slot `PD[1]` (R27). -/
  pd1 : Descriptor
  /-- `HSLOT`, the slot the current hash uses (R29). -/
  hslot : Slot
  /-- `HRATE` (R29). -/
  hrate : BitVec 4
  /-- `HDLEN` (R29). -/
  hdlen : BitVec 4
  /-- `HPOS` (R29). -/
  hpos : BitVec 4
  /-- `HPH` (R29). -/
  hph : Phase
  /-- `CRDY` (R30). -/
  crdy : Bool
  /-- `NONCE` (R30). -/
  nonce : Elem
  /-- `CTR`, the index of the next counter block (R30). -/
  ctr : BitVec 64
  /-- `KS[0..4]`, the current keystream block (R30). -/
  ks : Vector Elem 5
  /-- `KPOS`, 0..5 (R30). -/
  kpos : BitVec 3
  /-- `DBUF[0..47]` (R31). -/
  dbuf : Vector Byte 48
  /-- `DOUT[0..31]` (R32). -/
  dout : Vector Byte 32
  /-- `EXP` = EXPHI·2^32 + EXPLO (R38). -/
  exp : BitVec 64
  /-- `STATUS.BUSY` (R25). -/
  busy : Bool
  /-- `STATUS.DONE` (R25). -/
  done : Bool
  /-- `STATUS.ERR` (R25). -/
  err : Bool
  /-- `STATUS.EQ` (R25). -/
  eq : Bool
  /-- `ERRCODE` (R35). -/
  errcode : BitVec 3
  /-- `PENDING`, the command accepted and not yet completed (R43, R70). -/
  pending : Option Word
  /-- The configuration (R45); the model's own field, written by no step
  (notes/assumptions/2.md). -/
  cfg : Config
  /-- The environment's events still to come; the model's own field (notes/assumptions/4.md). -/
  script : List Event
  /-- The word the most recent bus read answered; the model's own field (notes/assumptions/4.md). -/
  rdata : Option Word
  deriving DecidableEq, Repr

/-- Why the machine stops with a fault. -/
inductive Fault where
  /-- A host access that is misaligned, not of 4 bytes, or outside offsets 0x00 to 0xFC: "a fault of
  the host" (R63, R64, spec/93 U2).  Raised by the bus operations only.  Safe: the platform may do
  something there, and the model claims nothing (notes/assumptions/8.md). -/
  | illegalBusAccess (addr n : Nat)
  deriving DecidableEq, Repr

/-- Why a step is refused. -/
inductive Refusal where
  /-- The instruction has no meaning yet.  Raised by no arm of `exec`.  Safe. -/
  | notModelled (mnemonic : String)
  /-- A host access the protocol forbids while `BUSY` = 1, whose effect the spec does not define
  (R72, R385, spec/93 U1 "refuse").  Raised by the bus operations only.  Safe
  (notes/assumptions/5.md). -/
  | accessWhileBusy (addr : Nat)
  deriving DecidableEq, Repr

/-- The state after reset, hard or soft: everything zero (R44, R380, R381).  The model's own fields:
the configuration the spec names, no event to come, nothing read yet. -/
def State.reset : State :=
  { x := Vector.replicate 16 0#256
    svec := Vector.replicate 12 0#256
    pd0 := Descriptor.cleared
    pd1 := Descriptor.cleared
    hslot := .pd0
    hrate := 0
    hdlen := 0
    hpos := 0
    hph := .idle
    crdy := false
    nonce := 0#256
    ctr := 0
    ks := Vector.replicate 5 0#256
    kpos := 0
    dbuf := Vector.replicate 48 0#8
    dout := Vector.replicate 32 0#8
    exp := 0
    busy := false
    done := false
    err := false
    eq := false
    errcode := 0
    pending := none
    cfg := Config.spec
    script := []
    rdata := none }

end Sys2Proof.Machine
end

