-- ==== Sys2Proof/Machine/Shake256.lean ====
section
/-! DEFINITION. SHAKE256, the function the spec requires of the XOF companion (spec/20_memory.md R75).
spec/ does not define it; that it is the function of NIST FIPS 202 is general knowledge (spec/93 G1).
PRESUMED, unsafe: notes/assumptions/1.md.  The 192 stream bytes spec/95 prints are reproduced. -/

namespace Sys2Proof.Machine

/-- The 1600-bit Keccak state: lane (x, y) at index x + 5y. -/
abbrev Keccak := Vector (BitVec 64) 25

/-- The lane at index i modulo 25. -/
def lane (a : Keccak) (i : Nat) : BitVec 64 := a.get ⟨i % 25, Nat.mod_lt i (by decide)⟩

/-- The lanes the walk (x, y) ↦ (y, 2x + 3y) visits in n steps from (x, y): the order in which the step
ρ hands out its rotations. -/
def rhoWalk : Nat → Nat → Nat → List Nat
  | 0, _, _ => []
  | n + 1, x, y => (x + 5 * y) :: rhoWalk n y ((2 * x + 3 * y) % 5)

/-- The rotation of a lane in the step ρ: the triangular number of its place in the walk from (1, 0); 0
for lane 0, which the walk does not visit. -/
def rhoOffset (i : Nat) : Nat :=
  let t := (rhoWalk 24 1 0).idxOf i
  if t < 24 then (t + 1) * (t + 2) / 2 % 64 else 0

/-- One shift of the register with the polynomial x⁸ + x⁶ + x⁵ + x⁴ + 1. -/
def lfsrShift (r : BitVec 8) : BitVec 8 :=
  if r[7] then (r <<< 1) ^^^ 0x71#8 else r <<< 1

/-- The lowest bits of n successive registers. -/
def lfsrBits : Nat → BitVec 8 → List Bool
  | 0, _ => []
  | n + 1, r => r[0] :: lfsrBits n (lfsrShift r)

/-- The constant the step ι adds in round r: its bits at the places 2^j − 1, j = 0..6, are seven
successive register bits, and the others are 0. -/
def iotaConstant (r : Nat) : BitVec 64 :=
  let bits := lfsrBits (24 * 7) 1#8
  (List.range 7).foldl
    (fun c j => if bits.getD (7 * r + j) false then c ||| 1#64 <<< (2 ^ j - 1) else c) 0#64

/-- The step θ. -/
def theta (a : Keccak) : Keccak :=
  let c : Vector (BitVec 64) 5 := Vector.ofFn fun x =>
    lane a x ^^^ lane a (x + 5) ^^^ lane a (x + 10) ^^^ lane a (x + 15) ^^^ lane a (x + 20)
  let at5 (i : Nat) : BitVec 64 := c.get ⟨i % 5, Nat.mod_lt i (by decide)⟩
  let d : Vector (BitVec 64) 5 := Vector.ofFn fun x => at5 (x + 4) ^^^ (at5 (x + 1)).rotateLeft 1
  Vector.ofFn fun i => lane a i ^^^ d.get ⟨i.val % 5, Nat.mod_lt i.val (by decide)⟩

/-- The steps ρ and π: the lane at (x, y) is rotated and moved to (y, 2x + 3y). -/
def rhoPi (a : Keccak) : Keccak :=
  Vector.ofFn fun i =>
    let y := i.val % 5
    let x := (i.val % 5 + 3 * (i.val / 5)) % 5
    (lane a (x + 5 * y)).rotateLeft (rhoOffset (x + 5 * y))

/-- The step χ. -/
def chi (a : Keccak) : Keccak :=
  Vector.ofFn fun i =>
    let x := i.val % 5
    let y := 5 * (i.val / 5)
    lane a i ^^^ (~~~(lane a ((x + 1) % 5 + y)) &&& lane a ((x + 2) % 5 + y))

/-- The step ι of round r. -/
def iota (r : Nat) (a : Keccak) : Keccak := a.set 0 (lane a 0 ^^^ iotaConstant r)

/-- Keccak-f[1600]: 24 rounds. -/
def keccakF (a : Keccak) : Keccak :=
  (List.range 24).foldl (fun a r => iota r (chi (rhoPi (theta a)))) a

/-- The rate of SHAKE256 in bytes. -/
def shakeRate : Nat := 136

/-- XOR a block of 136 bytes into the first 17 lanes. -/
def xorBlock (a : Keccak) (block : List Byte) : Keccak :=
  Vector.ofFn fun i => lane a i ^^^ BitVec.ofNat 64 (leNat ((block.drop (8 * i.val)).take 8))

/-- The message with the suffix 1111 and the padding 10*1, a multiple of 136 bytes. -/
def shakePad (msg : List Byte) : List Byte :=
  let room := shakeRate - msg.length % shakeRate
  if room = 1 then msg ++ [0x9F#8] else msg ++ [0x1F#8] ++ List.replicate (room - 2) 0#8 ++ [0x80#8]

/-- Absorb `n` blocks. -/
def shakeAbsorb : Nat → List Byte → Keccak → Keccak
  | 0, _, a => a
  | n + 1, bs, a => shakeAbsorb n (bs.drop shakeRate) (keccakF (xorBlock a (bs.take shakeRate)))

/-- The 136 bytes of output a state gives. -/
def squeezeBlock (a : Keccak) : List Byte :=
  (a.toList.take 17).flatMap fun l => leBytes 8 l.toNat

/-- Squeeze `n` blocks. -/
def shakeSqueeze : Nat → Keccak → List Byte
  | 0, _ => []
  | n + 1, a => squeezeBlock a ++ shakeSqueeze n (keccakF a)

/-- The first n bytes of the SHAKE256 output for the message `seed` (R75). -/
def shake256 (seed : List Byte) (n : Nat) : List Byte :=
  let padded := shakePad seed
  let absorbed := shakeAbsorb (padded.length / shakeRate) padded (Vector.replicate 25 0#64)
  (shakeSqueeze ((n + (shakeRate - 1)) / shakeRate) absorbed).take n

end Sys2Proof.Machine
end

