-- ==== Sys2Proof/Machine/Xof.lean ====
section
/-! DEFINITION. The XOF companion and the requests the unit makes of it (spec/20_memory.md R75, R76;
spec/43_permutation.md R232, R237, R238). -/

namespace Sys2Proof.Machine

/-- The companion's answer to `XOF(seed, n)`; `none` is `fail` (R75, U14). -/
def xofAnswer (xof : Xof) (seed : List Byte) (n : Nat) : Option (List Byte) :=
  match xof with
  | .shake256 => some (shake256 seed n)
  | .table answers => (answers.find? fun a => a.seed == seed && a.n == n).map XofAnswer.bytes

/-- One request: exactly n bytes, or `OperationError`.  A failure, or an answer of the wrong length,
raises (R75, R345, U14). -/
def xofRequest (xof : Xof) (seed : List Byte) (n : Nat) : Except ErrKind (List Byte) :=
  match xofAnswer xof seed n with
  | none => .error .operationError
  | some bs => if bs.length = n then .ok bs else .error .operationError

/-- `CIPHER_SEED`, the 36 bytes of R237. -/
def cipherSeed : List Byte :=
  [0x65, 0x6e, 0x63, 0x72, 0x79, 0x70, 0x74, 0x20, 0x65, 0x76, 0x65, 0x72, 0x79, 0x74, 0x68, 0x69,
   0x6e, 0x67, 0x2c, 0x20, 0x63, 0x6f, 0x6d, 0x70, 0x75, 0x74, 0x65, 0x20, 0x61, 0x6e, 0x79, 0x74,
   0x68, 0x69, 0x6e, 0x67]

/-- The bytes `Rescue-XLIX(`. -/
def hashSeedHead : List Byte :=
  [0x52, 0x65, 0x73, 0x63, 0x75, 0x65, 0x2d, 0x58, 0x4c, 0x49, 0x58, 0x28]

/-- `HASH_SEED(m, cap)`: `Rescue-XLIX(<p>,<m>,<cap>,256)` in ASCII (R238). -/
def hashSeed (m cap : Nat) : List Byte :=
  hashSeedHead ++ decimal P ++ [0x2c#8] ++ decimal m ++ [0x2c#8] ++ decimal cap ++ [0x2c#8]
    ++ decimal 256 ++ [0x29#8]

end Sys2Proof.Machine
end

