-- ==== Sys2Proof/Machine/Permutation.lean ====
section
/-! DEFINITION. The Rescue permutation engine, part A: parameters, matrices, round constants, key
schedule, the permutation and its inverse, and descriptor construction (spec/43_permutation.md R220 to
R242). -/

namespace Sys2Proof.Machine

/-! ### α (R221) -/

/-- The primes tried by `get_alpha` (R221; the tail of the list is G6). -/
def alphaPrimes : List Nat := [2, 3, 5, 7, 11, 13, 17, 19, 23, 29, 31, 37, 41, 43, 47]

/-- `get_alpha(q)`: the first listed prime that does not divide q − 1; `none` when all do, which the
spec leaves unstated and the unit's p cannot reach (R221, R222). -/
def getAlpha (q : Nat) : Option Nat := alphaPrimes.find? fun a => (q - 1) % a ≠ 0

/-! ### Round counts (R224, R225, R227) -/

/-- ⌈a / b⌉. -/
def ceilDiv (a b : Nat) : Nat := (a + b - 1) / b

/-- `rounds_cipher(m)` (R224). -/
def roundsCipher (m : Nat) : Nat :=
  2 * max (max (ceilDiv 256 (253 * (m + 1))) (ceilDiv 262 (11 * m))) 5

/-- The binomial coefficient C(n, k), exact, by the product formula (R9, R225). -/
def binomial (n : Nat) : Nat → Nat
  | 0 => 1
  | k + 1 => binomial n k * (n - k) / (k + 1)

/-- The test of the hash-mode search at n: C(v(n)+d(n), v(n))² > 2^256 (R225). -/
def searchTest (m cap n : Nat) : Bool :=
  let v := m * (n - 1) + (m - cap)
  let d := 2 * m * (n - 1) + 2
  2 ^ 256 < binomial (v + d) v ^ 2

/-- L1: the least n in 1..23 that passes the test, 23 if none does (R225, R227). -/
def hashL1 (m cap : Nat) : Nat :=
  ((List.range' 1 L1_CAP).find? fun n => searchTest m cap n).getD L1_CAP

/-- `rounds_hash(m, cap)` (R225). -/
def roundsHash (m cap : Nat) : Nat := ceilDiv (3 * max 5 (hashL1 m cap)) 2

/-! ### MDS matrix and its inverse (R228, R229) -/

/-- The element of a non-negative integer below 2^256. -/
def elemOfNat (n : Nat) : Elem := reduce256 (BitVec.ofNat 256 n)

/-- The element of an integer: a negative −n is p − n (R229). -/
def elemOfInt (z : Int) : Elem := if z < 0 then fneg (elemOfNat z.natAbs) else elemOfNat z.natAbs

/-- The product in F_p of the integers f k, k = 1..m, without those that `skip` names (R229). -/
def productExcept (m : Nat) (skip : Nat → Bool) (f : Nat → Int) : Elem :=
  ((List.range' 1 m).filter fun k => !skip k).foldl (fun acc k => fmul acc (elemOfInt (f k))) 1#256

/-- `cauchy(m)`: MDS[r][c] = 1/(r + c + 2) (R228). -/
def cauchy (m : Nat) : Rows :=
  (List.range m).map fun r => (List.range m).map fun c => inversionChain (elemOfNat (r + c + 2))

/-- Entry (i, j), 1-based, of the inverse Cauchy matrix (R229). -/
def cauchyInverseEntry (m i j : Nat) : Elem :=
  let numerator := fmul (productExcept m (fun _ => false) fun k => -(i : Int) - k)
    (productExcept m (fun _ => false) fun k => (j : Int) + k)
  let denominator := fmul (fmul (productExcept m (fun k => k == j) fun k => (j : Int) - k)
    (productExcept m (fun k => k == i) fun k => -(i : Int) + k)) (elemOfInt (-(i : Int) - j))
  fmul numerator (inversionChain denominator)

/-- `cauchy_inverse(m)` (R229). -/
def cauchyInverse (m : Nat) : Rows :=
  (List.range m).map fun r => (List.range m).map fun c => cauchyInverseEntry m (r + 1) (c + 1)

/-! ### The permutation (R239 to R241) -/

/-- The two S-box exponents (R239). -/
inductive SboxExp where
  | alpha
  | alphaInv
  deriving DecidableEq, Repr

/-- `sbox_exp(mode, r)` (R239). -/
def sboxExp : Mode → Nat → SboxExp
  | .cipher, r => if r % 2 = 0 then .alphaInv else .alpha
  | .hash, r => if r % 2 = 0 then .alpha else .alphaInv

/-- `inv_exp(e)`, the other exponent (R239). -/
def invExp : SboxExp → SboxExp
  | .alpha => .alphaInv
  | .alphaInv => .alpha

/-- The S-box on one element: `pow5` or `pow(·, ALPHA_INV)` (R239). -/
def sbox : SboxExp → Elem → Elem
  | .alpha, a => pow5 a
  | .alphaInv, a => pow a ALPHA_INV

/-- Forward sub-round r with subkey k: S-box, MDS, subkey addition (R240). -/
def subRound (mode : Mode) (mds : Rows) (r : Nat) (k s : Column) : Column :=
  vadd (matvec mds (s.map (sbox (sboxExp mode r)))) k

/-- The inverse of forward sub-round r (R241). -/
def subRoundInverse (mode : Mode) (mdsi : Rows) (r : Nat) (k u : Column) : Column :=
  (matvec mdsi (vsub u k)).map (sbox (invExp (sboxExp mode r)))

/-- The states from sub-round r on, one subkey of the list a sub-round. -/
def statesFrom (mode : Mode) (mds : Rows) : Nat → List Column → Column → List Column
  | _, [], s => [s]
  | r, k :: ks, s => s :: statesFrom mode mds (r + 1) ks (subRound mode mds r k s)

/-- `perm_states(mode, MDS, K, s)`: the 2N + 1 states (R240). -/
def permStates (mode : Mode) (mds : Rows) (k : List Column) (s : Column) : List Column :=
  match k with
  | [] => []
  | k0 :: ks => statesFrom mode mds 0 ks (vadd s k0)

/-- Undo the sub-rounds from r on, the last first (R241). -/
def undoFrom (mode : Mode) (mdsi : Rows) : Nat → List Column → Column → Column
  | _, [], u => u
  | r, k :: ks, u => subRoundInverse mode mdsi r k (undoFrom mode mdsi (r + 1) ks u)

/-! ### Reading a descriptor -/

/-- `MDS[0..m−1][0..m−1]` of a table, as rows. -/
def tableRows (m : Nat) (t : Table) : Rows := (t.toList.take m).map fun r => r.toList.take m

/-- The subkeys `K[0..2N]`, each a column of m elements (R27). -/
def Descriptor.subkeys (d : Descriptor) : List Column :=
  (d.k.toList.take (2 * d.n.toNat + 1)).map fun r => r.toList.take d.m.toNat

/-- The entry (r, c) of a table; 0 outside it. -/
def tableEntry {n : Nat} (t : Vector (Vector Elem 12) n) (r c : Nat) : Elem :=
  (t.toList.getD r (Vector.replicate 12 0#256)).toList.getD c 0#256

/-- Subkey t of a slot, m elements (R27). -/
def Descriptor.subkey (d : Descriptor) (t : Nat) : Column :=
  (d.k.toList.getD t (Vector.replicate 12 0#256)).toList.take d.m.toNat

/-- `permute(D, s)`, the last of the states (R240). -/
def permute (d : Descriptor) (s : Column) : Column :=
  (permStates d.mode (tableRows d.m.toNat d.mds) d.subkeys s).getLastD s

/-- `permute_inverse(D, s)` (R241). -/
def permuteInverse (d : Descriptor) (s : Column) : Column :=
  match d.subkeys with
  | [] => s
  | k0 :: ks => vsub (undoFrom d.mode (tableRows d.m.toNat d.mdsi) 0 ks s) k0

/-! ### Round constants and key schedule (R232 to R236, R242) -/

/-- `elems(bs)`: the first n 48-byte chunks, each reduced (R232). -/
def elems : Nat → List Byte → List Elem
  | 0, _ => []
  | n + 1, bs => wideReduce (bs.take WIDE_BYTES) :: elems n (bs.drop WIDE_BYTES)

/-- A list cut into n columns of m elements, in order. -/
def columns (m : Nat) : Nat → List Elem → List Column
  | 0, _ => []
  | n + 1, el => el.take m :: columns m n (el.drop m)

/-- The recurrence `raw[i+1] = C·raw[i] + c`, n further vectors after r (R234). -/
def recurrence (c : Rows) (cc : Column) : Nat → Column → List Column
  | 0, r => [r]
  | n + 1, r => r :: recurrence c cc n (vadd (matvec c r) cc)

/-- `raw_constants_cipher(m, N)`: C row by row, then r₀, then c; `OperationError` when the companion
fails or det(C) = 0 (R233, R234, R236). -/
def rawConstantsCipher (xof : Xof) (m n : Nat) : Except ErrKind (List Column) :=
  match xofRequest xof cipherSeed (WIDE_BYTES * (m * m + 2 * m)) with
  | .error e => .error e
  | .ok bs =>
    let el := elems (m * m + 2 * m) bs
    let c := columns m m el
    let r0 := (el.drop (m * m)).take m
    let cc := (el.drop (m * m + m)).take m
    if detRows m 1#256 c = 0#256 then .error .operationError else .ok (recurrence c cc (2 * n) r0)

/-- `raw_constants_hash(m, cap, N)`: the zero vector, then 2N vectors in stream order; `OperationError`
when the companion fails (R235). -/
def rawConstantsHash (xof : Xof) (m cap n : Nat) : Except ErrKind (List Column) :=
  match xofRequest xof (hashSeed m cap) (WIDE_BYTES * (2 * m * n)) with
  | .error e => .error e
  | .ok bs => .ok (List.replicate m 0#256 :: columns m (2 * n) (elems (2 * m * n) bs))

/-- `key_schedule(MDS, raw, key)` (R242). -/
def keySchedule (mds : Rows) (raw : List Column) (key : Column) : List Column :=
  permStates .cipher mds raw key

/-! ### Descriptor construction (R220) -/

/-- A table with the given rows, padded with zeros (R220 step 6). -/
def padTable (n : Nat) (rows : Rows) : Vector (Vector Elem 12) n :=
  Vector.ofFn fun r => Vector.ofFn fun c => (rows.getD r []).getD c 0#256

/-- The descriptor of R220 step 6. -/
def makeDescriptor (mode : Mode) (m cap n : Nat) (k : List Column) : Descriptor :=
  { valid := true
    mode := mode
    m := BitVec.ofNat 4 m
    cap := BitVec.ofNat 4 cap
    n := BitVec.ofNat 6 n
    mds := padTable 12 (cauchy m)
    mdsi := padTable 12 (cauchyInverse m)
    k := padTable 71 k }

/-- `build(Hash, m, cap, none)` (R220). -/
def buildHash (xof : Xof) (m cap : Nat) : Except ErrKind Descriptor :=
  match rawConstantsHash xof m cap (roundsHash m cap) with
  | .error e => .error e
  | .ok raw => .ok (makeDescriptor .hash m cap (roundsHash m cap) raw)

/-- `build(Cipher, m, 0, key)` (R220). -/
def buildCipher (xof : Xof) (m : Nat) (key : Column) : Except ErrKind Descriptor :=
  match rawConstantsCipher xof m (roundsCipher m) with
  | .error e => .error e
  | .ok raw =>
    .ok (makeDescriptor .cipher m 0 (roundsCipher m) (keySchedule (cauchy m) raw key))

end Sys2Proof.Machine
end

