-- ==== Sys2Proof/Machine/Sponge.lean ====
section
/-! DEFINITION. The Rescue-Prime sponge as a function of the whole message (spec/44_sponge.md R280). -/

namespace Sys2Proof.Machine

/-- The padded message: 1, then the fewest zeros that make the length a multiple of the rate (R280
step 1). -/
def spongePad (rate : Nat) (msg : List Elem) : List Elem :=
  let padded := msg ++ [1#256]
  padded ++ List.replicate ((rate - padded.length % rate) % rate) 0#256

/-- S ← permute(S + (block ‖ 0^cap)) (R280 step 3). -/
def absorbBlock (d : Descriptor) (cap : Nat) (s block : Column) : Column :=
  permute d (vadd s (block ++ List.replicate cap 0#256))

/-- `digest(D, rate, cap, dlen, msg)` (R280). -/
def digest (d : Descriptor) (rate cap dlen : Nat) (msg : List Elem) : List Elem :=
  let pad := spongePad rate msg
  let blocks := columns rate (pad.length / rate) pad
  (blocks.foldl (absorbBlock d cap) (List.replicate (rate + cap) 0#256)).take dlen

end Sys2Proof.Machine
end

