-- ==== Sys2Proof/Machine/Ctr.lean ====
section
/-! DEFINITION. The Rescue-CTR cipher and its key derivation as functions of whole messages
(spec/45_cipher.md R310 to R315). -/

namespace Sys2Proof.Machine

/-- Z, the element of the 32 secret bytes; `InvalidInput` for another length (R311). -/
def secretElem (secret : List Byte) : Except ErrKind Elem :=
  if secret.length ≠ SECRET_BYTES then .error .invalidInput else fromBytesLe secret

/-- The cipher key: the digest of (1, Z, 5) under the default hash descriptor D0 (R311). -/
def kdfKey (d0 : Descriptor) (z : Elem) : Column := digest d0 7 5 5 [1#256, z, 5#256]

/-- `kdf(secret)`: the length first, then the default hash descriptor (R311, R355). -/
def kdf (xof : Xof) (secret : List Byte) : Except ErrKind Column :=
  match secretElem secret with
  | .error e => .error e
  | .ok z =>
    match buildHash xof 12 5 with
    | .error e => .error e
    | .ok d0 => .ok (kdfKey d0 z)

/-- `cipher_new(secret)` (R312). -/
def cipherNew (xof : Xof) (secret : List Byte) : Except ErrKind Descriptor :=
  match kdf xof secret with
  | .error e => .error e
  | .ok key => buildCipher xof BLOCK key

/-- The counter block (N_nonce, j, 0, 0, 0), j taken as a field element (R313).  DESIGN CHOICE for j of p
or more, which no command reaches (R303): j is reduced modulo p.  The functions of whole messages are
meant for messages below 2^64 blocks, a bound the spec states for the unit only
(notes/assumptions/17.md). -/
def counterBlock (nonce : Elem) (j : Nat) : Column :=
  [nonce, BitVec.ofNat 256 (j % P), 0#256, 0#256, 0#256]

/-- The element of the 16 nonce bytes; `InvalidInput` for another length (R313). -/
def nonceElem (nonce : List Byte) : Except ErrKind Elem :=
  if nonce.length ≠ NONCE_BYTES then .error .invalidInput else fromBytesLe nonce

/-- `keystream_block(D, nonce, j)` (R313). -/
def keystreamBlock (d : Descriptor) (nonce : Elem) (j : Nat) : Column :=
  permute d (counterBlock nonce j)

/-- K_{j,i} for the element at index t = 5j + i (R314). -/
def keystreamAt (d : Descriptor) (nonce : Elem) (t : Nat) : Elem :=
  (keystreamBlock d nonce (t / BLOCK)).getD (t % BLOCK) 0#256

/-- `encrypt_raw`: each element plus its keystream element (R314). -/
def encryptRaw (d : Descriptor) (nonce : Elem) (pt : List Elem) : List Elem :=
  pt.mapIdx fun t a => fadd a (keystreamAt d nonce t)

/-- `decrypt_raw`: each element minus its keystream element (R314). -/
def decryptRaw (d : Descriptor) (nonce : Elem) (ct : List Elem) : List Elem :=
  ct.mapIdx fun t a => fsub a (keystreamAt d nonce t)

/-- `encrypt(D, pt, nonce)`: each ciphertext element as 32 bytes (R315). -/
def encryptBytes (d : Descriptor) (nonce : Elem) (pt : List Elem) : List (List Byte) :=
  (encryptRaw d nonce pt).map toBytesLe

/-- One ciphertext element: exactly 32 bytes, reduced and not rejected (R315). -/
def ciphertextElem (bs : List Byte) : Except ErrKind Elem :=
  if bs.length ≠ ELEM_BYTES then .error .invalidInput else fromBytesLe bs

/-- The elements of a sequence of ciphertext byte strings, the first error ending it (R315). -/
def ciphertextElems : List (List Byte) → Except ErrKind (List Elem)
  | [] => .ok []
  | bs :: rest =>
    match ciphertextElem bs with
    | .error e => .error e
    | .ok a =>
      match ciphertextElems rest with
      | .error e => .error e
      | .ok as => .ok (a :: as)

/-- `decrypt(D, cts, nonce)` (R315). -/
def decryptBytes (d : Descriptor) (nonce : Elem) (cts : List (List Byte)) :
    Except ErrKind (List Elem) :=
  match ciphertextElems cts with
  | .error e => .error e
  | .ok ct => .ok (decryptRaw d nonce ct)

end Sys2Proof.Machine
end

