-- ==== Sys2Proof/WellFormed.lean ====
section
/-! DEFINITION. Which commands an encoding admits (spec/30_encoding.md R98, R101, R102).  Every field
takes every value of its width; the one check the spec makes at decode is that the key registers of
`PDINIT.C` do not wrap. -/

namespace Sys2Proof

/-- The command has a legal command word (R101 step 4, R102 (c)): every command has one, but
`PDINIT.C` with `kb + m > 16`. -/
def Instr.wellFormed : Instr → Bool
  | .pdinitC _ m kb => kb.toNat + m.toNat ≤ 16
  | _ => true

/-- `Instr.wellFormed` as a proposition. -/
abbrev Instr.WellFormed (i : Instr) : Prop := i.wellFormed = true

end Sys2Proof
end

