-- ==== Sys2Proof/Decode.lean ====
section
/-! DEFINITION. Decoding and encoding of command words (spec/30_encoding.md R90 to R102).  A command
is one 32-bit word written whole to `CMD` (R90, R62): there is no byte stream and no second word. -/

namespace Sys2Proof

/-- Why a command word is illegal (R102).  Each ends in `IllegalCommand` (R347). -/
inductive DecodeError where
  /-- R102 (a): the opcode is not one of the 47 values of R100. -/
  | unassignedOpcode
  /-- R102 (b): a must-be-zero bit of the row is 1. -/
  | reservedBits
  /-- R102 (c): `PDINIT.C` with `kb + m > 16`. -/
  | keyRange
  deriving DecidableEq, Repr

/-! ### Fields (R90 to R95, positions of R100) -/

/-- `op`, bits 31:24. -/
def fieldOp (w : Word) : BitVec 8 := w.extractLsb' 24 8
/-- `rd`, `r` or `kb`, bits 23:20. -/
def fieldRd (w : Word) : BitVec 4 := w.extractLsb' 20 4
/-- `ra`, bits 19:16. -/
def fieldRa (w : Word) : BitVec 4 := w.extractLsb' 16 4
/-- `rb`, bits 15:12. -/
def fieldRb (w : Word) : BitVec 4 := w.extractLsb' 12 4
/-- `imm16`, bits 15:0. -/
def fieldImm16 (w : Word) : BitVec 16 := w.extractLsb' 0 16
/-- `len`, bits 5:0. -/
def fieldLen (w : Word) : BitVec 6 := w.extractLsb' 0 6
/-- `mode`, bit 18. -/
def fieldMode (w : Word) : BitVec 1 := w.extractLsb' 18 1
/-- `t`, bits 18:12. -/
def fieldT (w : Word) : BitVec 7 := w.extractLsb' 12 7
/-- `i`, `m` or `dlen`, bits 11:8. -/
def fieldI (w : Word) : BitVec 4 := w.extractLsb' 8 4
/-- `j` or `cap`, bits 7:4. -/
def fieldJ (w : Word) : BitVec 4 := w.extractLsb' 4 4
/-- The slot a `k` bit names. -/
def slotOfBit (b : BitVec 1) : Slot := if b = 1#1 then .pd1 else .pd0
/-- The `k` bit of a slot. -/
def bitOfSlot : Slot → BitVec 1
  | .pd0 => 0#1
  | .pd1 => 1#1
/-- `k`, bit 19. -/
def fieldK (w : Word) : Slot := slotOfBit (w.extractLsb' 19 1)

/-! ### The opcode map -/

/-- The match and mask columns of one row of R100. -/
structure MatchMask where
  value : Word
  mask  : Word
  deriving DecidableEq, Repr

/-- The word belongs to the row: `w AND mask = match` (R100). -/
def MatchMask.covers (r : MatchMask) (w : Word) : Bool := w &&& r.mask == r.value

/-- The 48 rows of the complete opcode map, in its order (R100). -/
def opcodeMap : List MatchMask :=
  [
    ⟨0x00000000#32, 0xFFFFFFFF#32⟩,
    ⟨0x01000000#32, 0xFF0FFFFF#32⟩,
    ⟨0x02000000#32, 0xFF0FFFFF#32⟩,
    ⟨0x03000000#32, 0xFF00FFFF#32⟩,
    ⟨0x04000000#32, 0xFF0F0000#32⟩,
    ⟨0x05000000#32, 0xFF0FFFC0#32⟩,
    ⟨0x06000000#32, 0xFF0FFFC0#32⟩,
    ⟨0x07000000#32, 0xFFF0FFFF#32⟩,
    ⟨0x08000000#32, 0xFFF00FFF#32⟩,
    ⟨0x10000000#32, 0xFF000FFF#32⟩,
    ⟨0x11000000#32, 0xFF000FFF#32⟩,
    ⟨0x12000000#32, 0xFF00FFFF#32⟩,
    ⟨0x13000000#32, 0xFF000FFF#32⟩,
    ⟨0x14000000#32, 0xFF00FFFF#32⟩,
    ⟨0x15000000#32, 0xFF00FFFF#32⟩,
    ⟨0x16000000#32, 0xFF00FFFF#32⟩,
    ⟨0x17000000#32, 0xFF000FFF#32⟩,
    ⟨0x18000000#32, 0xFF00FFFF#32⟩,
    ⟨0x20000000#32, 0xFFF7F00F#32⟩,
    ⟨0x20040000#32, 0xFF07F0FF#32⟩,
    ⟨0x21000000#32, 0xFFF7FFFF#32⟩,
    ⟨0x22000000#32, 0xFF07F00F#32⟩,
    ⟨0x23000000#32, 0xFF07F00F#32⟩,
    ⟨0x24000000#32, 0xFF0000FF#32⟩
  ] ++ [
    ⟨0x25000000#32, 0xFF0FFFFF#32⟩,
    ⟨0x28000000#32, 0xFFFFFFFF#32⟩,
    ⟨0x29000000#32, 0xFF0FF0FF#32⟩,
    ⟨0x2A000000#32, 0xFF0FF0FF#32⟩,
    ⟨0x2B000000#32, 0xFFF00FFF#32⟩,
    ⟨0x2C000000#32, 0xFFF00FFF#32⟩,
    ⟨0x2D000000#32, 0xFFF7FFFF#32⟩,
    ⟨0x2E000000#32, 0xFFF7FFFF#32⟩,
    ⟨0x2F000000#32, 0xFFF7FFFF#32⟩,
    ⟨0x30000000#32, 0xFFF7FFFF#32⟩,
    ⟨0x31000000#32, 0xFFF00FFF#32⟩,
    ⟨0x32000000#32, 0xFFF00FFF#32⟩,
    ⟨0x33000000#32, 0xFFF7FFFF#32⟩,
    ⟨0x34000000#32, 0xFFF7FFFF#32⟩,
    ⟨0x40000000#32, 0xFFF7F0FF#32⟩,
    ⟨0x41000000#32, 0xFFF0FFFF#32⟩,
    ⟨0x42000000#32, 0xFFFFFFFF#32⟩,
    ⟨0x43000000#32, 0xFF0FF0FF#32⟩,
    ⟨0x50000000#32, 0xFFFFFFC0#32⟩,
    ⟨0x51000000#32, 0xFFFFFFC0#32⟩,
    ⟨0x52000000#32, 0xFF00FFFF#32⟩,
    ⟨0x53000000#32, 0xFF00FFFF#32⟩,
    ⟨0x54000000#32, 0xFFF0FFFF#32⟩,
    ⟨0x55000000#32, 0xFF0FFFC0#32⟩
  ]

/-- The row of R100 a command belongs to. -/
def Instr.row : Instr → MatchMask
  | .nop => ⟨0x00000000#32, 0xFFFFFFFF#32⟩
  | .fzero _ => ⟨0x01000000#32, 0xFF0FFFFF#32⟩
  | .fone _ => ⟨0x02000000#32, 0xFF0FFFFF#32⟩
  | .fmov _ _ => ⟨0x03000000#32, 0xFF00FFFF#32⟩
  | .fldi _ _ => ⟨0x04000000#32, 0xFF0F0000#32⟩
  | .fld _ _ => ⟨0x05000000#32, 0xFF0FFFC0#32⟩
  | .fldw _ _ => ⟨0x06000000#32, 0xFF0FFFC0#32⟩
  | .fst _ => ⟨0x07000000#32, 0xFFF0FFFF#32⟩
  | .feq _ _ => ⟨0x08000000#32, 0xFFF00FFF#32⟩
  | .fadd _ _ _ => ⟨0x10000000#32, 0xFF000FFF#32⟩
  | .fsub _ _ _ => ⟨0x11000000#32, 0xFF000FFF#32⟩
  | .fneg _ _ => ⟨0x12000000#32, 0xFF00FFFF#32⟩
  | .fmul _ _ _ => ⟨0x13000000#32, 0xFF000FFF#32⟩
  | .fsqr _ _ => ⟨0x14000000#32, 0xFF00FFFF#32⟩
  | .fpow5 _ _ => ⟨0x15000000#32, 0xFF00FFFF#32⟩
  | .finv _ _ => ⟨0x16000000#32, 0xFF00FFFF#32⟩
  | .fpow _ _ _ => ⟨0x17000000#32, 0xFF000FFF#32⟩
  | .fpowu _ _ => ⟨0x18000000#32, 0xFF00FFFF#32⟩
  | .pdinitH _ _ _ => ⟨0x20000000#32, 0xFFF7F00F#32⟩
  | .pdinitC _ _ _ => ⟨0x20040000#32, 0xFF07F0FF#32⟩
  | .pdclr _ => ⟨0x21000000#32, 0xFFF7FFFF#32⟩
  | .pdrdm _ _ _ _ => ⟨0x22000000#32, 0xFF07F00F#32⟩
  | .pdrdmi _ _ _ _ => ⟨0x23000000#32, 0xFF07F00F#32⟩
  | .pdrdk _ _ _ _ => ⟨0x24000000#32, 0xFF0000FF#32⟩
  | .pdrdai _ => ⟨0x25000000#32, 0xFF0FFFFF#32⟩
  | .vzero => ⟨0x28000000#32, 0xFFFFFFFF#32⟩
  | .vld _ _ => ⟨0x29000000#32, 0xFF0FF0FF#32⟩
  | .vst _ _ => ⟨0x2A000000#32, 0xFF0FF0FF#32⟩
  | .vaddk _ _ => ⟨0x2B000000#32, 0xFFF00FFF#32⟩
  | .vsubk _ _ => ⟨0x2C000000#32, 0xFFF00FFF#32⟩
  | .vpowa _ => ⟨0x2D000000#32, 0xFFF7FFFF#32⟩
  | .vpowai _ => ⟨0x2E000000#32, 0xFFF7FFFF#32⟩
  | .vmds _ => ⟨0x2F000000#32, 0xFFF7FFFF#32⟩
  | .vmdsi _ => ⟨0x30000000#32, 0xFFF7FFFF#32⟩
  | .psub _ _ => ⟨0x31000000#32, 0xFFF00FFF#32⟩
  | .psubi _ _ => ⟨0x32000000#32, 0xFFF00FFF#32⟩
  | .perm _ => ⟨0x33000000#32, 0xFFF7FFFF#32⟩
  | .permi _ => ⟨0x34000000#32, 0xFFF7FFFF#32⟩
  | .hinit _ _ => ⟨0x40000000#32, 0xFFF7F0FF#32⟩
  | .habs _ => ⟨0x41000000#32, 0xFFF0FFFF#32⟩
  | .hfin => ⟨0x42000000#32, 0xFFFFFFFF#32⟩
  | .hsqz _ _ => ⟨0x43000000#32, 0xFF0FF0FF#32⟩
  | .ckey _ => ⟨0x50000000#32, 0xFFFFFFC0#32⟩
  | .cnonce _ => ⟨0x51000000#32, 0xFFFFFFC0#32⟩
  | .cenc _ _ => ⟨0x52000000#32, 0xFF00FFFF#32⟩
  | .cdec _ _ => ⟨0x53000000#32, 0xFF00FFFF#32⟩
  | .cencb _ => ⟨0x54000000#32, 0xFFF0FFFF#32⟩
  | .cdecb _ _ => ⟨0x55000000#32, 0xFF0FFFC0#32⟩

/-! ### Decoding (R101) -/

/-- Step 3 of R101: the word is the command `i` read from it unless a must-be-zero bit of the
command's row is 1. -/
def checkRow (w : Word) (i : Instr) : Except DecodeError Instr :=
  if i.row.covers w then .ok i else .error .reservedBits

/-- Step 4 of R101: the key registers of `PDINIT.C` do not wrap. -/
def keyRange (i : Instr) : Except DecodeError Instr :=
  if i.wellFormed then .ok i else .error .keyRange

/-- Decoding of a command word: choose the row by the opcode, for 0x20 by bit 18, check the
must-be-zero bits, check the key range, extract the fields (R101). -/
def decodeWord (w : Word) : Except DecodeError Instr :=
  match (fieldOp w).toNat with
  | 0x00 => checkRow w .nop
  | 0x01 => checkRow w (.fzero (fieldRd w))
  | 0x02 => checkRow w (.fone (fieldRd w))
  | 0x03 => checkRow w (.fmov (fieldRd w) (fieldRa w))
  | 0x04 => checkRow w (.fldi (fieldRd w) (fieldImm16 w))
  | 0x05 => checkRow w (.fld (fieldRd w) (fieldLen w))
  | 0x06 => checkRow w (.fldw (fieldRd w) (fieldLen w))
  | 0x07 => checkRow w (.fst (fieldRa w))
  | 0x08 => checkRow w (.feq (fieldRa w) (fieldRb w))
  | 0x10 => checkRow w (.fadd (fieldRd w) (fieldRa w) (fieldRb w))
  | 0x11 => checkRow w (.fsub (fieldRd w) (fieldRa w) (fieldRb w))
  | 0x12 => checkRow w (.fneg (fieldRd w) (fieldRa w))
  | 0x13 => checkRow w (.fmul (fieldRd w) (fieldRa w) (fieldRb w))
  | 0x14 => checkRow w (.fsqr (fieldRd w) (fieldRa w))
  | 0x15 => checkRow w (.fpow5 (fieldRd w) (fieldRa w))
  | 0x16 => checkRow w (.finv (fieldRd w) (fieldRa w))
  | 0x17 => checkRow w (.fpow (fieldRd w) (fieldRa w) (fieldRb w))
  | 0x18 => checkRow w (.fpowu (fieldRd w) (fieldRa w))
  | 0x20 =>
    if fieldMode w = 0#1 then checkRow w (.pdinitH (fieldK w) (fieldI w) (fieldJ w))
    else checkRow w (.pdinitC (fieldK w) (fieldI w) (fieldRd w)) >>= keyRange
  | 0x21 => checkRow w (.pdclr (fieldK w))
  | 0x22 => checkRow w (.pdrdm (fieldRd w) (fieldK w) (fieldI w) (fieldJ w))
  | 0x23 => checkRow w (.pdrdmi (fieldRd w) (fieldK w) (fieldI w) (fieldJ w))
  | 0x24 => checkRow w (.pdrdk (fieldRd w) (fieldK w) (fieldT w) (fieldI w))
  | 0x25 => checkRow w (.pdrdai (fieldRd w))
  | 0x28 => checkRow w .vzero
  | 0x29 => checkRow w (.vld (fieldI w) (fieldRd w))
  | 0x2A => checkRow w (.vst (fieldRd w) (fieldI w))
  | 0x2B => checkRow w (.vaddk (fieldK w) (fieldT w))
  | 0x2C => checkRow w (.vsubk (fieldK w) (fieldT w))
  | 0x2D => checkRow w (.vpowa (fieldK w))
  | 0x2E => checkRow w (.vpowai (fieldK w))
  | 0x2F => checkRow w (.vmds (fieldK w))
  | 0x30 => checkRow w (.vmdsi (fieldK w))
  | 0x31 => checkRow w (.psub (fieldK w) (fieldT w))
  | 0x32 => checkRow w (.psubi (fieldK w) (fieldT w))
  | 0x33 => checkRow w (.perm (fieldK w))
  | 0x34 => checkRow w (.permi (fieldK w))
  | 0x40 => checkRow w (.hinit (fieldK w) (fieldI w))
  | 0x41 => checkRow w (.habs (fieldRa w))
  | 0x42 => checkRow w .hfin
  | 0x43 => checkRow w (.hsqz (fieldRd w) (fieldI w))
  | 0x50 => checkRow w (.ckey (fieldLen w))
  | 0x51 => checkRow w (.cnonce (fieldLen w))
  | 0x52 => checkRow w (.cenc (fieldRd w) (fieldRa w))
  | 0x53 => checkRow w (.cdec (fieldRd w) (fieldRa w))
  | 0x54 => checkRow w (.cencb (fieldRa w))
  | 0x55 => checkRow w (.cdecb (fieldRd w) (fieldLen w))
  | _ => .error .unassignedOpcode

/-- What the host asks: the command the decoder reads from the word whose low `nbits` bits are `w`,
the bits above being 0. -/
def decodeTableWord (nbits w : Nat) : Option Instr :=
  match decodeWord (BitVec.ofNat 32 (w % 2 ^ nbits)) with
  | .ok i => some i
  | .error _ => none

/-! ### Encoding -/

/-- Format R (R91). -/
def encR (op : BitVec 8) (rd ra rb : BitVec 4) : Word := op ++ rd ++ ra ++ rb ++ 0#12
/-- Format I (R92). -/
def encI (op : BitVec 8) (rd : BitVec 4) (imm16 : BitVec 16) : Word := op ++ rd ++ 0#4 ++ imm16
/-- Format B (R93). -/
def encB (op : BitVec 8) (r : BitVec 4) (len : BitVec 6) : Word := op ++ r ++ 0#14 ++ len
/-- Format D (R94). -/
def encD (op : BitVec 8) (kb : BitVec 4) (k : Slot) (mode : BitVec 1) (m cap : BitVec 4) : Word :=
  op ++ kb ++ bitOfSlot k ++ mode ++ 0#6 ++ m ++ cap ++ 0#4
/-- Format P (R95). -/
def encP (op : BitVec 8) (r : BitVec 4) (k : Slot) (t : BitVec 7) (i j : BitVec 4) : Word :=
  op ++ r ++ bitOfSlot k ++ t ++ i ++ j ++ 0#4

/-- The command word of a command (R90 to R95, R100). -/
def encode : Instr → Word
  | .nop => encR 0x00#8 0#4 0#4 0#4
  | .fzero rd => encR 0x01#8 rd 0#4 0#4
  | .fone rd => encR 0x02#8 rd 0#4 0#4
  | .fmov rd ra => encR 0x03#8 rd ra 0#4
  | .fldi rd imm16 => encI 0x04#8 rd imm16
  | .fld rd len => encB 0x05#8 rd len
  | .fldw rd len => encB 0x06#8 rd len
  | .fst ra => encR 0x07#8 0#4 ra 0#4
  | .feq ra rb => encR 0x08#8 0#4 ra rb
  | .fadd rd ra rb => encR 0x10#8 rd ra rb
  | .fsub rd ra rb => encR 0x11#8 rd ra rb
  | .fneg rd ra => encR 0x12#8 rd ra 0#4
  | .fmul rd ra rb => encR 0x13#8 rd ra rb
  | .fsqr rd ra => encR 0x14#8 rd ra 0#4
  | .fpow5 rd ra => encR 0x15#8 rd ra 0#4
  | .finv rd ra => encR 0x16#8 rd ra 0#4
  | .fpow rd ra rb => encR 0x17#8 rd ra rb
  | .fpowu rd ra => encR 0x18#8 rd ra 0#4
  | .pdinitH k m cap => encD 0x20#8 0#4 k 0#1 m cap
  | .pdinitC k m kb => encD 0x20#8 kb k 1#1 m 0#4
  | .pdclr k => encP 0x21#8 0#4 k 0#7 0#4 0#4
  | .pdrdm rd k i j => encP 0x22#8 rd k 0#7 i j
  | .pdrdmi rd k i j => encP 0x23#8 rd k 0#7 i j
  | .pdrdk rd k t i => encP 0x24#8 rd k t i 0#4
  | .pdrdai rd => encP 0x25#8 rd .pd0 0#7 0#4 0#4
  | .vzero => encP 0x28#8 0#4 .pd0 0#7 0#4 0#4
  | .vld i ra => encP 0x29#8 ra .pd0 0#7 i 0#4
  | .vst rd i => encP 0x2A#8 rd .pd0 0#7 i 0#4
  | .vaddk k t => encP 0x2B#8 0#4 k t 0#4 0#4
  | .vsubk k t => encP 0x2C#8 0#4 k t 0#4 0#4
  | .vpowa k => encP 0x2D#8 0#4 k 0#7 0#4 0#4
  | .vpowai k => encP 0x2E#8 0#4 k 0#7 0#4 0#4
  | .vmds k => encP 0x2F#8 0#4 k 0#7 0#4 0#4
  | .vmdsi k => encP 0x30#8 0#4 k 0#7 0#4 0#4
  | .psub k t => encP 0x31#8 0#4 k t 0#4 0#4
  | .psubi k t => encP 0x32#8 0#4 k t 0#4 0#4
  | .perm k => encP 0x33#8 0#4 k 0#7 0#4 0#4
  | .permi k => encP 0x34#8 0#4 k 0#7 0#4 0#4
  | .hinit k dlen => encP 0x40#8 0#4 k 0#7 dlen 0#4
  | .habs ra => encR 0x41#8 0#4 ra 0#4
  | .hfin => encR 0x42#8 0#4 0#4 0#4
  | .hsqz rd i => encP 0x43#8 rd .pd0 0#7 i 0#4
  | .ckey len => encB 0x50#8 0#4 len
  | .cnonce len => encB 0x51#8 0#4 len
  | .cenc rd ra => encR 0x52#8 rd ra 0#4
  | .cdec rd ra => encR 0x53#8 rd ra 0#4
  | .cencb ra => encR 0x54#8 0#4 ra 0#4
  | .cdecb rd len => encB 0x55#8 rd len

end Sys2Proof
end

