-- ==== Sys2Proof/Machine/Operands.lean ====
section
/-! DEFINITION. How a command reaches its operands: element registers, state-vector lanes, slots, the
leading bytes of `DBUF`, the key registers (spec/30_encoding.md R96 to R99; spec/10_state.md R21, R26,
R27, R31, R32). -/

namespace Sys2Proof.Machine

/-! ### Element registers (R21) -/

/-- `x[r]` (R21, R98). -/
def State.reg (s : State) (r : Reg) : Elem := s.x.get r.toFin

/-- `x[r] <- v` (R21). -/
def State.setReg (s : State) (r : Reg) (v : Elem) : State :=
  { s with x := s.x.set r.toNat v r.isLt }

/-- The key registers `x[kb]`, …, `x[kb+m−1]` (R98, R245). -/
def State.keyRegs (s : State) (kb : Reg) (m : Nat) : Column := (s.x.toList.drop kb.toNat).take m

/-! ### The state vector (R26) -/

/-- `S[i]`; 0 for i ≥ 12, which no command of a reachable state asks for (notes/assumptions/11.md). -/
def State.lane (s : State) (i : Nat) : Elem := s.svec.toList.getD i 0#256

/-- The vector with lane i replaced; itself for i ≥ 12. -/
@[irreducible] def laneWritten (u : Vector Elem 12) (i : Nat) (v : Elem) : Vector Elem 12 :=
  Vector.ofFn fun j => if j.val = i then v else u.get j

/-- `S[i] <- v`; nothing for i ≥ 12 (notes/assumptions/11.md). -/
def State.setLane (s : State) (i : Nat) (v : Elem) : State :=
  { s with svec := laneWritten s.svec i v }

/-- `S[0..m−1]` as a column (R26). -/
def State.lanes (s : State) (m : Nat) : Column := s.svec.toList.take m

/-- The vector with its first lanes replaced by the column, the lanes beyond it unchanged. -/
@[irreducible] def lanesWritten (u : Vector Elem 12) (v : Column) : Vector Elem 12 :=
  Vector.ofFn fun j => v.getD j.val (u.get j)

/-- `S[0..len−1] <- v`, the lanes beyond the column unchanged (R26, R208). -/
def State.setLanes (s : State) (v : Column) : State :=
  { s with svec := lanesWritten s.svec v }

/-! ### Descriptor slots (R27) -/

/-- `PD[k]` (R27). -/
def State.slot (s : State) : Slot → Descriptor
  | .pd0 => s.pd0
  | .pd1 => s.pd1

/-- `PD[k] <- d` (R27). -/
def State.setSlot (s : State) (k : Slot) (d : Descriptor) : State :=
  match k with
  | .pd0 => { s with pd0 := d }
  | .pd1 => { s with pd1 := d }

/-! ### Byte buffers (R31, R32, R96) -/

/-- `DBUF[0..len−1]` (R96). -/
def State.inputBytes (s : State) (len : Nat) : List Byte := s.dbuf.toList.take len

/-- The 32 bytes of an element (R156). -/
@[irreducible] def doutBytes (a : Elem) : Vector Byte 32 :=
  Vector.ofFn fun i => (toBytesLe a).getD i.val 0#8

/-- `DOUT[0..31] <- to_bytes_le(a)` (R32, R156). -/
def State.setDout (s : State) (a : Elem) : State :=
  { s with dout := doutBytes a }

end Sys2Proof.Machine
end

