-- ==== Sys2Proof/Machine/Flags.lean ====
section
/-! DEFINITION. The flags and the words the read-only registers show (spec/10_state.md R25, R34, R35,
R39 to R41). -/

namespace Sys2Proof.Machine

/-- One bit as a field of a register word. -/
def bitOfBool (b : Bool) : BitVec 1 := BitVec.ofBool b

/-- The 2-bit value of `HPH` (R29). -/
def phaseBits : Phase → BitVec 2
  | .idle => 0
  | .absorb => 1
  | .squeeze => 2

/-- The `mode` bit (R27, R39). -/
def modeBit : Mode → BitVec 1
  | .hash => 0
  | .cipher => 1

/-- `EQ <- b`, the one condition flag, written by `FEQ` only (R25, R178). -/
def State.setEq (s : State) (b : Bool) : State := { s with eq := b }

/-- `STATUS` (R34). -/
def State.statusWord (s : State) : Word :=
  0#22 ++ phaseBits s.hph ++ 0#1 ++ bitOfBool s.crdy ++ bitOfBool s.pd1.valid
    ++ bitOfBool s.pd0.valid ++ bitOfBool s.eq ++ bitOfBool s.err ++ bitOfBool s.done
    ++ bitOfBool s.busy

/-- `ERRCODE` (R35). -/
def State.errcodeWord (s : State) : Word := s.errcode.setWidth 32

/-- `PDINFO0` or `PDINFO1`: all fields 0 when the slot is invalid (R39). -/
def Descriptor.infoWord (d : Descriptor) : Word :=
  if d.valid then 0#16 ++ 1#1 ++ modeBit d.mode ++ d.n ++ d.cap ++ d.m else 0#32

/-- `HINFO` (R40). -/
def State.hinfoWord (s : State) : Word :=
  0#17 ++ bitOfSlot s.hslot ++ phaseBits s.hph ++ s.hpos ++ s.hdlen ++ s.hrate

end Sys2Proof.Machine
end

