-- ==== Sys2Proof/Machine/Ops.lean ====
section
/-! DEFINITION. The operations commands share: completion, taking an error and returning from one, the
resets of the sponge and cipher bookkeeping, slot checks, the keystream (spec/20_memory.md R71;
spec/60_exceptions.md R341, R355, R356; spec/43_permutation.md R243; spec/45_cipher.md R300). -/

namespace Sys2Proof.Machine

/-! ### Completion, error entry and return -/

/-- The end every command has: `PENDING <- none`, `BUSY <- 0`, `DONE <- 1` (R71). -/
def State.complete (s : State) : State :=
  { s with pending := none, busy := false, done := true }

/-- Taking an error of kind e, the unit's whole trap entry: `ERR <- 1`, `ERRCODE <- code(e)`, the
completion, every other piece of state as it was (R341). -/
def State.raise (s : State) (e : ErrKind) : State :=
  { s with err := true, errcode := e.code, pending := none, busy := false, done := true }

/-- Returning from an error, `CTRL.CLRERR`: `ERR <- 0`, `ERRCODE <- 0`, nothing else (R356, R333). -/
def State.clearError (s : State) : State := { s with err := false, errcode := 0 }

/-- The completion step of a command whose rule, evaluated on s, answers `r`: all of its assignments,
or none of them and the error (R71, R341). -/
def finish (s : State) (r : Except ErrKind State) : Host.Outcome State Fault Refusal :=
  match r with
  | .ok t => .next t.complete
  | .error e => .next (s.raise e)

/-- Every piece of the unit's state at its reset value (R44, R380, R381); the configuration and the
environment are not state of the unit (R382). -/
def State.softReset (s : State) : State :=
  { State.reset with cfg := s.cfg, script := s.script, rdata := s.rdata }

/-! ### Bookkeeping resets (R243) -/

/-- `reset_sponge` (R243). -/
def State.resetSponge (s : State) : State :=
  { s with hslot := .pd0, hrate := 0, hdlen := 0, hpos := 0, hph := .idle }

/-- `reset_cipher` (R243). -/
def State.resetCipher (s : State) : State :=
  { s with crdy := false, nonce := 0#256, ctr := 0, ks := Vector.replicate 5 0#256, kpos := 0 }

/-- `PD[k] <- d`, `if k = HSLOT: reset_sponge`, `if k = 1: reset_cipher` (R244, R245, R246, R389). -/
def State.installSlot (s : State) (k : Slot) (d : Descriptor) : State :=
  let t := s.setSlot k d
  let u := if k = s.hslot then t.resetSponge else t
  if k = .pd1 then u.resetCipher else u

/-- `S[i] <- 0` for all i in 0..11 (R251, R283, R301). -/
def State.clearLanes (s : State) : State := { s with svec := Vector.replicate 12 0#256 }

/-! ### Checks shared by commands, in the order of R355 -/

/-- The rule `f` of a command that needs a valid slot: `OperationError` when `PD[k].valid` = 0
(R243 (6), R345). -/
def State.withSlot (s : State) (k : Slot) (f : Descriptor → Except ErrKind State) :
    Except ErrKind State :=
  if (s.slot k).valid then f (s.slot k) else .error .operationError

/-- The cipher-usable check of slot 1 (R300). -/
def State.usable (s : State) : Except ErrKind Unit :=
  if !s.pd1.valid then .error .operationError
  else if s.pd1.mode ≠ .cipher then .error .operationError
  else if s.pd1.m.toNat ≠ BLOCK then .error .dimensionMismatch
  else .ok ()

/-! ### Work on the state vector (R243 (7)) -/

/-- `S[0..m−1] <- f(PD[k], S[0..m−1])` for a valid slot k. -/
def State.mapLanes (s : State) (k : Slot) (f : Descriptor → Column → Column) :
    Except ErrKind State :=
  s.withSlot k fun d => .ok (s.setLanes (f d (s.lanes d.m.toNat)))

/-- As `mapLanes`, for a command whose index t has the bound `bound`: `IndexOutOfRange` when t exceeds
it (R343). -/
def State.mapLanesAt (s : State) (k : Slot) (t : Nat) (bound : Descriptor → Nat)
    (f : Descriptor → Column → Column) : Except ErrKind State :=
  s.withSlot k fun d =>
    if bound d < t then .error .indexOutOfRange
    else .ok (s.setLanes (f d (s.lanes d.m.toNat)))

/-! ### The sponge step (R284, R285) -/

/-- `S[HPOS] <- fadd(S[HPOS], a)` (R284, R285). -/
def State.absorbAt (s : State) (a : Elem) : State :=
  s.setLane s.hpos.toNat (fadd (s.lane s.hpos.toNat) a)

/-- `S[0..m−1] <- permute(PD[HSLOT], S[0..m−1])` (R284, R285). -/
def State.permuteSponge (s : State) : State :=
  s.setLanes (permute (s.slot s.hslot) (s.lanes (s.slot s.hslot).m.toNat))

/-! ### The keystream (R300, R303) -/

/-- What `next_ks` leaves: the keystream element and the state with `KS`, `CTR`, `KPOS` advanced. -/
structure KeystreamStep where
  ks    : Elem
  state : State

/-- `next_ks`: a new block when `KPOS` = 5, `Overflow` when `CTR` = 2^64 − 1 (R300, R303). -/
def State.nextKs (s : State) : Except ErrKind KeystreamStep :=
  if s.kpos.toNat = 5 then
    if s.ctr = BitVec.allOnes 64 then .error .overflow
    else
      let block := keystreamBlock s.pd1 s.nonce s.ctr.toNat
      .ok
        { ks := block.getD 0 0#256
          state :=
            { s with
              ks := Vector.ofFn fun i => block.getD i.val 0#256
              ctr := s.ctr + 1
              kpos := 1 } }
  else
    .ok
      { ks := s.ks.toList.getD s.kpos.toNat 0#256
        state := { s with kpos := s.kpos + 1 } }

/-- The rule of a stream command once its own checks are made: take the next keystream element, then
`f` (R304 to R307). -/
def State.stream (s : State) (f : State → Elem → State) : Except ErrKind State :=
  match s.nextKs with
  | .error e => .error e
  | .ok step => .ok (f step.state step.ks)

end Sys2Proof.Machine
end

