-- ==== Sys2Proof/Machine/Bus.lean ====
section
/-! DEFINITION. The host's bus accesses (spec/20_memory.md R63 to R73; spec/10_state.md R33 to R41;
spec/46_system.md R332, R333). -/

namespace Sys2Proof.Machine

/-- The only legal access: 4 bytes, aligned, within 0x00 to 0xFC (R63). -/
def legalAccess (addr n : Nat) : Bool := n == 4 && addr % 4 == 0 && decide (addr ≤ 0xFC)

/-- A reserved offset: 0x30 to 0x3C, 0x70 to 0x7C, 0xA0 to 0xFC (R65, R69). -/
def reservedOffset (addr : Nat) : Bool :=
  decide (0x30 ≤ addr ∧ addr ≤ 0x3F) || decide (0x70 ≤ addr ∧ addr ≤ 0x7F)
    || decide (0xA0 ≤ addr ∧ addr ≤ 0xFF)

/-- `DOUT[i]`; 0 outside 0..31. -/
def State.doutByte (s : State) (i : Nat) : Byte := s.dout.toList.getD i 0#8

/-- `DBUF[i]`; 0 outside 0..47. -/
def State.dbufByte (s : State) (i : Nat) : Byte := s.dbuf.toList.getD i 0#8

/-- The word a read of the register space answers (R65): the read-only and read-write registers, the
`DOUT` window; 0 for the write-only registers, the `DBUF` window and the reserved offsets (R66, R68,
R69, R73). -/
def State.readWord (s : State) (addr : Nat) : Word :=
  if addr = 0x04 then s.statusWord
  else if addr = 0x08 then s.errcodeWord
  else if addr = 0x10 then s.exp.setWidth 32
  else if addr = 0x14 then s.exp.extractLsb' 32 32
  else if addr = 0x18 then s.pd0.infoWord
  else if addr = 0x1C then s.pd1.infoWord
  else if addr = 0x20 then s.hinfoWord
  else if addr = 0x24 then s.ctr.setWidth 32
  else if addr = 0x28 then s.ctr.extractLsb' 32 32
  else if addr = 0x2C then 0x4D464131#32
  else if 0x80 ≤ addr ∧ addr < 0xA0 then
    let i := addr - 0x80
    wordOfBytes (s.doutByte i) (s.doutByte (i + 1)) (s.doutByte (i + 2)) (s.doutByte (i + 3))
  else 0#32

/-- Command issue: dropped while `ERR` = 1, else the command is accepted (R70). -/
def State.issue (s : State) (w : Word) : State :=
  if s.err then s else { s with pending := some w, busy := true, done := false }

/-- A write to `CTRL` (R36): ignored as a whole when a bit of 31:2 is 1; `SRST` wins over `CLRERR`. -/
def State.writeCtrl (s : State) (v : Word) : State :=
  if v.extractLsb' 2 30 ≠ 0#30 then s
  else if v[0] then s.softReset
  else if v[1] then s.clearError
  else s

/-- The buffer with the four bytes of the word v at index `off` (R61, R66). -/
@[irreducible] def dbufWritten (u : Vector Byte 48) (off : Nat) (v : Word) : Vector Byte 48 :=
  Vector.ofFn fun i => if off ≤ i.val ∧ i.val < off + 4 then wordByte v (i.val - off) else u.get i

/-- A write of word v at offset `off` of the `DBUF` window (R66). -/
def State.writeDbuf (s : State) (off : Nat) (v : Word) : State :=
  { s with dbuf := dbufWritten s.dbuf off v }

/-- The effect of a write to the register space (R65): read-only registers, the `DOUT` window and the
reserved offsets ignore it (R68, R69). -/
def State.writeWord (s : State) (addr : Nat) (v : Word) : State :=
  if addr = 0x00 then s.issue v
  else if addr = 0x0C then s.writeCtrl v
  else if addr = 0x10 then { s with exp := s.exp.extractLsb' 32 32 ++ v }
  else if addr = 0x14 then { s with exp := v ++ s.exp.setWidth 32 }
  else if 0x40 ≤ addr ∧ addr < 0x70 then s.writeDbuf (addr - 0x40) v
  else s

/-- While `BUSY` = 1 the host may read `STATUS` (R72) and the reserved offsets, which read 0 "at any
time" (R69; notes/assumptions/6.md). -/
def readAllowedBusy (addr : Nat) : Bool := addr == 0x04 || reservedOffset addr

/-- While `BUSY` = 1 the host may write `CTRL` with `SRST` = 1 (R72) and the reserved offsets, which
ignore writes "at any time" (R69; notes/assumptions/6.md, notes/assumptions/7.md). -/
def writeAllowedBusy (addr : Nat) (v : Word) : Bool :=
  (addr == 0x0C && v[0]) || reservedOffset addr

/-- `MemRead(addr, n)` (R14, R63, R64, R72, R73). -/
def busRead (addr n : Nat) (s : State) : Host.Outcome State Fault Refusal :=
  if !legalAccess addr n then .fault (.illegalBusAccess addr n)
  else if s.busy && !readAllowedBusy addr then .refused (.accessWhileBusy addr)
  else .next { s with rdata := some (s.readWord addr) }

/-- `MemWrite(addr, n, v)` (R14, R63, R64, R72). -/
def busWrite (addr n : Nat) (v : Word) (s : State) : Host.Outcome State Fault Refusal :=
  if !legalAccess addr n then .fault (.illegalBusAccess addr n)
  else if s.busy && !writeAllowedBusy addr v then .refused (.accessWhileBusy addr)
  else .next (s.writeWord addr v)

end Sys2Proof.Machine
end

