-- ==== Sys2Proof/Machine/CipherCmds.lean ====
section
/-! DEFINITION. The six cipher commands (spec/45_cipher.md part B, R300 to R307). -/

namespace Sys2Proof.Machine

/-- `CKEY len` (R301). -/
def execCkey (len : BitVec 6) (s : State) : Host.Outcome State Fault Refusal :=
  finish s <|
    if len.toNat ≠ SECRET_BYTES then .error .invalidInput
    else
      match secretElem (s.inputBytes SECRET_BYTES) with
      | .error e => .error e
      | .ok z =>
        match buildHash s.cfg.xof 12 5 with
        | .error e => .error e
        | .ok d0 =>
          match buildCipher s.cfg.xof BLOCK (kdfKey d0 z) with
          | .error e => .error e
          | .ok d1 =>
            .ok { (((s.setSlot .pd0 d0).setSlot .pd1 d1).clearLanes.resetSponge.resetCipher) with
                  dbuf := Vector.replicate 48 0#8 }

/-- `CNONCE len` (R302). -/
def execCnonce (len : BitVec 6) (s : State) : Host.Outcome State Fault Refusal :=
  finish s <|
    match s.usable with
    | .error e => .error e
    | .ok _ =>
      if len.toNat ≠ NONCE_BYTES then .error .invalidInput
      else
        match fromBytesLe (s.inputBytes NONCE_BYTES) with
        | .error e => .error e
        | .ok n =>
          .ok { s with nonce := n, ctr := 0, ks := Vector.replicate 5 0#256, kpos := 5, crdy := true }

/-- `CENC rd, ra` (R304). -/
def execCenc (rd ra : Reg) (s : State) : Host.Outcome State Fault Refusal :=
  finish s <|
    if !s.crdy then .error .operationError
    else s.stream fun t ks => t.setReg rd (fadd (s.reg ra) ks)

/-- `CDEC rd, ra` (R305). -/
def execCdec (rd ra : Reg) (s : State) : Host.Outcome State Fault Refusal :=
  finish s <|
    if !s.crdy then .error .operationError
    else s.stream fun t ks => t.setReg rd (fsub (s.reg ra) ks)

/-- `CENCB ra` (R306). -/
def execCencb (ra : Reg) (s : State) : Host.Outcome State Fault Refusal :=
  finish s <|
    if !s.crdy then .error .operationError
    else s.stream fun t ks => t.setDout (fadd (s.reg ra) ks)

/-- `CDECB rd, len`: `CRDY`, then the length, then the counter (R307, R355). -/
def execCdecb (rd : Reg) (len : BitVec 6) (s : State) : Host.Outcome State Fault Refusal :=
  finish s <|
    if !s.crdy then .error .operationError
    else if len.toNat ≠ ELEM_BYTES then .error .invalidInput
    else
      match fromBytesLe (s.inputBytes ELEM_BYTES) with
      | .error e => .error e
      | .ok c => s.stream fun t ks => t.setReg rd (fsub c ks)

end Sys2Proof.Machine
end

