-- ==== Sys2Proof/Machine/FieldCmds.lean ====
section
/-! DEFINITION. The 17 field commands (spec/41_field.md part B, R170 to R187). -/

namespace Sys2Proof.Machine

/-- `FZERO rd` (R171). -/
def execFzero (rd : Reg) (s : State) : Host.Outcome State Fault Refusal :=
  finish s (.ok (s.setReg rd 0#256))

/-- `FONE rd` (R172). -/
def execFone (rd : Reg) (s : State) : Host.Outcome State Fault Refusal :=
  finish s (.ok (s.setReg rd 1#256))

/-- `FMOV rd, ra` (R173). -/
def execFmov (rd ra : Reg) (s : State) : Host.Outcome State Fault Refusal :=
  finish s (.ok (s.setReg rd (s.reg ra)))

/-- `FLDI rd, imm16`: the immediate zero-extended (R174, R97). -/
def execFldi (rd : Reg) (imm16 : BitVec 16) (s : State) : Host.Outcome State Fault Refusal :=
  finish s (.ok (s.setReg rd (imm16.setWidth 256)))

/-- `FLD rd, len` (R175). -/
def execFld (rd : Reg) (len : BitVec 6) (s : State) : Host.Outcome State Fault Refusal :=
  finish s <|
    if 32 < len.toNat then .error .invalidInput
    else
      match fromBytesLe (s.inputBytes len.toNat) with
      | .error e => .error e
      | .ok a => .ok (s.setReg rd a)

/-- `FLDW rd, len` (R176). -/
def execFldw (rd : Reg) (len : BitVec 6) (s : State) : Host.Outcome State Fault Refusal :=
  finish s <|
    if len.toNat ≠ WIDE_BYTES then .error .invalidInput
    else .ok (s.setReg rd (wideReduce (s.inputBytes WIDE_BYTES)))

/-- `FST ra` (R177). -/
def execFst (ra : Reg) (s : State) : Host.Outcome State Fault Refusal :=
  finish s (.ok (s.setDout (s.reg ra)))

/-- `FEQ ra, rb` (R178). -/
def execFeq (ra rb : Reg) (s : State) : Host.Outcome State Fault Refusal :=
  finish s (.ok (s.setEq (feq (s.reg ra) (s.reg rb))))

/-- `FADD rd, ra, rb` (R179). -/
def execFadd (rd ra rb : Reg) (s : State) : Host.Outcome State Fault Refusal :=
  finish s (.ok (s.setReg rd (fadd (s.reg ra) (s.reg rb))))

/-- `FSUB rd, ra, rb`: `x[ra]` minus `x[rb]` (R180). -/
def execFsub (rd ra rb : Reg) (s : State) : Host.Outcome State Fault Refusal :=
  finish s (.ok (s.setReg rd (fsub (s.reg ra) (s.reg rb))))

/-- `FNEG rd, ra` (R181). -/
def execFneg (rd ra : Reg) (s : State) : Host.Outcome State Fault Refusal :=
  finish s (.ok (s.setReg rd (fneg (s.reg ra))))

/-- `FMUL rd, ra, rb` (R182). -/
def execFmul (rd ra rb : Reg) (s : State) : Host.Outcome State Fault Refusal :=
  finish s (.ok (s.setReg rd (fmul (s.reg ra) (s.reg rb))))

/-- `FSQR rd, ra` (R183). -/
def execFsqr (rd ra : Reg) (s : State) : Host.Outcome State Fault Refusal :=
  finish s (.ok (s.setReg rd (fsqr (s.reg ra))))

/-- `FPOW5 rd, ra` (R184). -/
def execFpow5 (rd ra : Reg) (s : State) : Host.Outcome State Fault Refusal :=
  finish s (.ok (s.setReg rd (pow5 (s.reg ra))))

/-- `FINV rd, ra`: `InvalidInput` when `x[ra]` = 0 (R185). -/
def execFinv (rd ra : Reg) (s : State) : Host.Outcome State Fault Refusal :=
  finish s <|
    match finv (s.reg ra) with
    | .error e => .error e
    | .ok a => .ok (s.setReg rd a)

/-- `FPOW rd, ra, rb`: base `x[ra]`, exponent the integer `x[rb]` (R186). -/
def execFpow (rd ra rb : Reg) (s : State) : Host.Outcome State Fault Refusal :=
  finish s (.ok (s.setReg rd (pow (s.reg ra) (s.reg rb))))

/-- `FPOWU rd, ra`: the exponent is `EXP` (R187). -/
def execFpowu (rd ra : Reg) (s : State) : Host.Outcome State Fault Refusal :=
  finish s (.ok (s.setReg rd (powU64 (s.reg ra) s.exp)))

end Sys2Proof.Machine
end

