-- ==== Sys2Proof/Machine/PermutationCmds.lean ====
section
/-! DEFINITION. The 20 commands of the permutation engine (spec/43_permutation.md part B, R243 to R263). -/

namespace Sys2Proof.Machine

/-- `PDINIT.H pdk, m, cap` (R244). -/
def execPdinitH (k : Slot) (m cap : BitVec 4) (s : State) : Host.Outcome State Fault Refusal :=
  finish s <|
    if m.toNat < M_MIN ∨ M_MAX < m.toNat then .error .invalidInput
    else if cap = 0 ∨ m.toNat ≤ cap.toNat then .error .invalidInput
    else
      match buildHash s.cfg.xof m.toNat cap.toNat with
      | .error e => .error e
      | .ok d => .ok (s.installSlot k d)

/-- `PDINIT.C pdk, m, xkb` (R245); `kb + m > 16` is refused at decode (R101). -/
def execPdinitC (k : Slot) (m : BitVec 4) (kb : Reg) (s : State) : Host.Outcome State Fault Refusal :=
  finish s <|
    if m.toNat < M_MIN ∨ M_MAX < m.toNat then .error .invalidInput
    else
      match buildCipher s.cfg.xof m.toNat (s.keyRegs kb m.toNat) with
      | .error e => .error e
      | .ok d => .ok (s.installSlot k d)

/-- `PDCLR pdk` (R246). -/
def execPdclr (k : Slot) (s : State) : Host.Outcome State Fault Refusal :=
  finish s (.ok (s.installSlot k Descriptor.cleared))

/-- `PDRDM rd, pdk, i, j` (R248). -/
def execPdrdm (rd : Reg) (k : Slot) (i j : BitVec 4) (s : State) : Host.Outcome State Fault Refusal :=
  finish s <| s.withSlot k fun d =>
    if d.m.toNat ≤ i.toNat ∨ d.m.toNat ≤ j.toNat then .error .indexOutOfRange
    else .ok (s.setReg rd (tableEntry d.mds i.toNat j.toNat))

/-- `PDRDMI rd, pdk, i, j` (R249). -/
def execPdrdmi (rd : Reg) (k : Slot) (i j : BitVec 4) (s : State) : Host.Outcome State Fault Refusal :=
  finish s <| s.withSlot k fun d =>
    if d.m.toNat ≤ i.toNat ∨ d.m.toNat ≤ j.toNat then .error .indexOutOfRange
    else .ok (s.setReg rd (tableEntry d.mdsi i.toNat j.toNat))

/-- `PDRDK rd, pdk, t, i` (R247); an integrator may make the subkeys of a cipher-mode slot
unreadable (spec/93 U9). -/
def execPdrdk (rd : Reg) (k : Slot) (t : BitVec 7) (i : BitVec 4) (s : State) : Host.Outcome State Fault Refusal :=
  finish s <| s.withSlot k fun d =>
    if d.mode = .cipher ∧ s.cfg.pdrdkCipherReadable = false then .error .operationError
    else if 2 * d.n.toNat < t.toNat ∨ d.m.toNat ≤ i.toNat then .error .indexOutOfRange
    else .ok (s.setReg rd (tableEntry d.k t.toNat i.toNat))

/-- `PDRDAI rd` (R250). -/
def execPdrdai (rd : Reg) (s : State) : Host.Outcome State Fault Refusal :=
  finish s (.ok (s.setReg rd ALPHA_INV))

/-- `VZERO` (R251). -/
def execVzero (s : State) : Host.Outcome State Fault Refusal :=
  finish s (.ok s.clearLanes)

/-- `VLD i, ra` (R252). -/
def execVld (i : BitVec 4) (ra : Reg) (s : State) : Host.Outcome State Fault Refusal :=
  finish s <|
    if M_MAX ≤ i.toNat then .error .indexOutOfRange else .ok (s.setLane i.toNat (s.reg ra))

/-- `VST rd, i` (R253). -/
def execVst (rd : Reg) (i : BitVec 4) (s : State) : Host.Outcome State Fault Refusal :=
  finish s <|
    if M_MAX ≤ i.toNat then .error .indexOutOfRange else .ok (s.setReg rd (s.lane i.toNat))

/-- `VADDK pdk, t` (R254). -/
def execVaddk (k : Slot) (t : BitVec 7) (s : State) : Host.Outcome State Fault Refusal :=
  finish s <| s.mapLanesAt k t.toNat (fun d => 2 * d.n.toNat) fun d v => vadd v (d.subkey t.toNat)

/-- `VSUBK pdk, t` (R255). -/
def execVsubk (k : Slot) (t : BitVec 7) (s : State) : Host.Outcome State Fault Refusal :=
  finish s <| s.mapLanesAt k t.toNat (fun d => 2 * d.n.toNat) fun d v => vsub v (d.subkey t.toNat)

/-- `VPOWA pdk` (R256). -/
def execVpowa (k : Slot) (s : State) : Host.Outcome State Fault Refusal :=
  finish s <| s.mapLanes k fun _ v => v.map pow5

/-- `VPOWAI pdk` (R257). -/
def execVpowai (k : Slot) (s : State) : Host.Outcome State Fault Refusal :=
  finish s <| s.mapLanes k fun _ v => v.map fun a => pow a ALPHA_INV

/-- `VMDS pdk` (R258). -/
def execVmds (k : Slot) (s : State) : Host.Outcome State Fault Refusal :=
  finish s <| s.mapLanes k fun d v => matvec (tableRows d.m.toNat d.mds) v

/-- `VMDSI pdk` (R259). -/
def execVmdsi (k : Slot) (s : State) : Host.Outcome State Fault Refusal :=
  finish s <| s.mapLanes k fun d v => matvec (tableRows d.m.toNat d.mdsi) v

/-- `PSUB pdk, t`: forward sub-round t (R260). -/
def execPsub (k : Slot) (t : BitVec 7) (s : State) : Host.Outcome State Fault Refusal :=
  finish s <| s.mapLanesAt k t.toNat (fun d => 2 * d.n.toNat - 1) fun d v =>
    subRound d.mode (tableRows d.m.toNat d.mds) t.toNat (d.subkey (t.toNat + 1)) v

/-- `PSUBI pdk, t`: the inverse of sub-round t (R261). -/
def execPsubi (k : Slot) (t : BitVec 7) (s : State) : Host.Outcome State Fault Refusal :=
  finish s <| s.mapLanesAt k t.toNat (fun d => 2 * d.n.toNat - 1) fun d v =>
    subRoundInverse d.mode (tableRows d.m.toNat d.mdsi) t.toNat (d.subkey (t.toNat + 1)) v

/-- `PERM pdk` (R262). -/
def execPerm (k : Slot) (s : State) : Host.Outcome State Fault Refusal :=
  finish s <| s.mapLanes k permute

/-- `PERMI pdk` (R263). -/
def execPermi (k : Slot) (s : State) : Host.Outcome State Fault Refusal :=
  finish s <| s.mapLanes k permuteInverse

end Sys2Proof.Machine
end

