-- ==== Sys2Proof/Machine/SpongeCmds.lean ====
section
/-! DEFINITION. The four sponge commands (spec/44_sponge.md part B, R282 to R286). -/

namespace Sys2Proof.Machine

/-- `HINIT pdk, dlen` (R283). -/
def execHinit (k : Slot) (dlen : BitVec 4) (s : State) : Host.Outcome State Fault Refusal :=
  finish s <| s.withSlot k fun d =>
    if d.mode ≠ .hash then .error .operationError
    else if d.m.toNat < dlen.toNat then .error .invalidInput
    else
      .ok { s.clearLanes with hslot := k, hrate := d.m - d.cap, hdlen := dlen, hpos := 0, hph := .absorb }

/-- `HABS ra` (R284). -/
def execHabs (ra : Reg) (s : State) : Host.Outcome State Fault Refusal :=
  finish s <|
    if s.hph ≠ .absorb then .error .operationError
    else if s.hpos.toNat + 1 = s.hrate.toNat then
      .ok { (s.absorbAt (s.reg ra)).permuteSponge with hpos := 0 }
    else .ok { s.absorbAt (s.reg ra) with hpos := s.hpos + 1 }

/-- `HFIN` (R285). -/
def execHfin (s : State) : Host.Outcome State Fault Refusal :=
  finish s <|
    if s.hph ≠ .absorb then .error .operationError
    else .ok { (s.absorbAt 1#256).permuteSponge with hpos := 0, hph := .squeeze }

/-- `HSQZ rd, i` (R286). -/
def execHsqz (rd : Reg) (i : BitVec 4) (s : State) : Host.Outcome State Fault Refusal :=
  finish s <|
    if s.hph ≠ .squeeze then .error .operationError
    else if s.hdlen.toNat ≤ i.toNat then .error .indexOutOfRange
    else .ok (s.setReg rd (s.lane i.toNat))

end Sys2Proof.Machine
end

