-- ==== Sys2Proof/Machine/SystemCmds.lean ====
section
/-! DEFINITION. System commands: `NOP` (spec/46_system.md R331). -/

namespace Sys2Proof.Machine

/-- `NOP`: nothing but the completion (R331). -/
def execNop (s : State) : Host.Outcome State Fault Refusal :=
  finish s (.ok s)

end Sys2Proof.Machine
end

