-- ==== Sys2Proof/Machine/Dispatch.lean ====
section
/-! DEFINITION. One arm per command: the completion step's effect of a decoded command
(spec/20_memory.md R71). -/

namespace Sys2Proof.Machine

def exec (i : Instr) (s : State) : Host.Outcome State Fault Refusal :=
  match i with
  | .nop => Sys2Proof.Machine.execNop s
  | .fzero rd => Sys2Proof.Machine.execFzero rd s
  | .fone rd => Sys2Proof.Machine.execFone rd s
  | .fmov rd ra => Sys2Proof.Machine.execFmov rd ra s
  | .fldi rd imm16 => Sys2Proof.Machine.execFldi rd imm16 s
  | .fld rd len => Sys2Proof.Machine.execFld rd len s
  | .fldw rd len => Sys2Proof.Machine.execFldw rd len s
  | .fst ra => Sys2Proof.Machine.execFst ra s
  | .feq ra rb => Sys2Proof.Machine.execFeq ra rb s
  | .fadd rd ra rb => Sys2Proof.Machine.execFadd rd ra rb s
  | .fsub rd ra rb => Sys2Proof.Machine.execFsub rd ra rb s
  | .fneg rd ra => Sys2Proof.Machine.execFneg rd ra s
  | .fmul rd ra rb => Sys2Proof.Machine.execFmul rd ra rb s
  | .fsqr rd ra => Sys2Proof.Machine.execFsqr rd ra s
  | .fpow5 rd ra => Sys2Proof.Machine.execFpow5 rd ra s
  | .finv rd ra => Sys2Proof.Machine.execFinv rd ra s
  | .fpow rd ra rb => Sys2Proof.Machine.execFpow rd ra rb s
  | .fpowu rd ra => Sys2Proof.Machine.execFpowu rd ra s
  | .pdinitH k m cap => Sys2Proof.Machine.execPdinitH k m cap s
  | .pdinitC k m kb => Sys2Proof.Machine.execPdinitC k m kb s
  | .pdclr k => Sys2Proof.Machine.execPdclr k s
  | .pdrdm rd k r c => Sys2Proof.Machine.execPdrdm rd k r c s
  | .pdrdmi rd k r c => Sys2Proof.Machine.execPdrdmi rd k r c s
  | .pdrdk rd k t e => Sys2Proof.Machine.execPdrdk rd k t e s
  | .pdrdai rd => Sys2Proof.Machine.execPdrdai rd s
  | .vzero => Sys2Proof.Machine.execVzero s
  | .vld e ra => Sys2Proof.Machine.execVld e ra s
  | .vst rd e => Sys2Proof.Machine.execVst rd e s
  | .vaddk k t => Sys2Proof.Machine.execVaddk k t s
  | .vsubk k t => Sys2Proof.Machine.execVsubk k t s
  | .vpowa k => Sys2Proof.Machine.execVpowa k s
  | .vpowai k => Sys2Proof.Machine.execVpowai k s
  | .vmds k => Sys2Proof.Machine.execVmds k s
  | .vmdsi k => Sys2Proof.Machine.execVmdsi k s
  | .psub k t => Sys2Proof.Machine.execPsub k t s
  | .psubi k t => Sys2Proof.Machine.execPsubi k t s
  | .perm k => Sys2Proof.Machine.execPerm k s
  | .permi k => Sys2Proof.Machine.execPermi k s
  | .hinit k dlen => Sys2Proof.Machine.execHinit k dlen s
  | .habs ra => Sys2Proof.Machine.execHabs ra s
  | .hfin => Sys2Proof.Machine.execHfin s
  | .hsqz rd e => Sys2Proof.Machine.execHsqz rd e s
  | .ckey len => Sys2Proof.Machine.execCkey len s
  | .cnonce len => Sys2Proof.Machine.execCnonce len s
  | .cenc rd ra => Sys2Proof.Machine.execCenc rd ra s
  | .cdec rd ra => Sys2Proof.Machine.execCdec rd ra s
  | .cencb ra => Sys2Proof.Machine.execCencb ra s
  | .cdecb rd len => Sys2Proof.Machine.execCdecb rd len s

end Sys2Proof.Machine
end

