-- ==== Sys2Proof/Machine/Turn.lean ====
section
/-! DEFINITION. The unit's turn: the completion step of the pending command (spec/20_memory.md R71). -/

namespace Sys2Proof.Machine

/-- The completion step of the accepted word w: decode it, then its command; an illegal word completes
by raising `IllegalCommand` (R71, R101, R102, R347). -/
def completeWord (w : Word) (s : State) : Host.Outcome State Fault Refusal :=
  match decodeWord w with
  | .ok i => exec i s
  | .error _ => .next (s.raise .illegalCommand)

/-- The unit acts: it completes the pending command, and an idle unit keeps all state (R71, R369). -/
def unitTurn (s : State) : Host.Outcome State Fault Refusal :=
  match s.pending with
  | some w => completeWord w s
  | none => .next s

/-- One event of the environment, in the state with that event gone from the script. -/
def runEvent (e : Event) (s : State) : Host.Outcome State Fault Refusal :=
  match e with
  | .wait => unitTurn s
  | .read addr n => busRead addr n s
  | .write addr n v => busWrite addr n v s
  | .hardReset => .next s.softReset

/-- The pending word and the handshake as command issue leaves them, with the unit's turn next. -/
def State.withPending (s : State) (w : Word) : State :=
  { s with pending := some w, busy := true, done := false, script := .wait :: s.script }

end Sys2Proof.Machine
end

