-- ==== Sys2Proof/Machine/Step.lean ====
section
/-! DEFINITION. One step of the system of unit and host: the next event of the environment, or the
unit's turn when none is left (spec/20_memory.md R77, R83; notes/assumptions/4.md). -/

namespace Sys2Proof.Machine

/-- One step. -/
def step (s : State) : Host.Outcome State Fault Refusal :=
  match s.script with
  | [] => unitTurn s
  | e :: es => runEvent e { s with script := es }

/-- s with the command word of the low `nbits` bits of `w` accepted (R70) and the unit's turn next, so
that the very next step completes exactly it (notes/assumptions/4.md). -/
def State.withFetchWord (s : State) (nbits w : Nat) : State :=
  s.withPending (BitVec.ofNat 32 (w % 2 ^ nbits))

end Sys2Proof.Machine
end

