-- ==== Sys2Proof/Safety.lean ====
section
/-! DEFINITION. What statements about the unit speak of: the state a completed command leaves, the
values the spec's formulas give as integers, the descriptors the constructions make, and the invariant
of R22, R27, R282 and R300. -/

namespace Sys2Proof.Machine

/-! ### The state a command leaves -/

/-- t with the common completion: `PENDING` = none, `BUSY` = 0, `DONE` = 1 (R71). -/
def after (t : State) : State := { t with pending := none, busy := false, done := true }

/-- What a command that raises e leaves of s (R341). -/
def afterError (s : State) (e : ErrKind) : State :=
  { s with err := true, errcode := e.code, pending := none, busy := false, done := true }

/-- s with `x[rd]` = v and nothing else changed. -/
def withReg (s : State) (rd : Reg) (v : Elem) : State :=
  { s with x := s.x.set rd.toNat v rd.isLt }

/-- s with `PD[k]` = d and nothing else changed. -/
def withPd (s : State) (k : Slot) (d : Descriptor) : State :=
  match k with
  | .pd0 => { s with pd0 := d }
  | .pd1 => { s with pd1 := d }

/-- s with the sponge bookkeeping all 0 (R243 `reset_sponge`). -/
def withSpongeIdle (s : State) : State :=
  { s with hslot := .pd0, hrate := 0, hdlen := 0, hpos := 0, hph := .idle }

/-- s with the cipher bookkeeping all 0 (R243 `reset_cipher`). -/
def withCipherIdle (s : State) : State :=
  { s with crdy := false, nonce := 0, ctr := 0, ks := Vector.replicate 5 0, kpos := 0 }

/-- s with a new descriptor in slot k and the users of the slot reset (R389). -/
def withNewSlot (s : State) (k : Slot) (d : Descriptor) : State :=
  let t := withPd s k d
  let u := if k = s.hslot then withSpongeIdle t else t
  if k = .pd1 then withCipherIdle u else u

/-- The commands of a list in order, each raising nothing; `none` as soon as one raises or stops. -/
def runCommands : List Instr → State → Option State
  | [], s => some s
  | i :: is, s =>
    match exec i s with
    | .next t => if t.err then none else runCommands is t
    | _ => none

/-- An illegal word: of no row of the opcode map (an unassigned opcode, or a must-be-zero bit set), or
`PDINIT.C` whose key registers would wrap (R102). -/
def IllegalWord (w : Word) : Prop :=
  (∀ r ∈ opcodeMap, w &&& r.mask ≠ r.value) ∨
  (w &&& 0xFF07F0FF#32 = 0x20040000#32 ∧
    16 < (w.extractLsb' 20 4).toNat + (w.extractLsb' 8 4).toNat)

/-! ### Values as integers -/

/-- A canonical element (R22). -/
abbrev Canonical (a : Elem) : Prop := a.toNat < P

/-- Chunk q of an XOF answer, 48 bytes, as an integer modulo p (R232, R157). -/
def chunkValue (bs : List Byte) (q : Nat) : Nat :=
  leNat ((bs.drop (WIDE_BYTES * q)).take WIDE_BYTES) % P

/-- The S-box exponent of sub-round r as an integer (R239). -/
def sboxExponent (mode : Mode) (r : Nat) : Nat :=
  match mode, r % 2 with
  | .cipher, 0 => ALPHA_INV.toNat
  | .cipher, _ => ALPHA
  | .hash, 0 => ALPHA
  | .hash, _ => ALPHA_INV.toNat

/-- The exponent that undoes the S-box of sub-round r (R239 `inv_exp`, R241). -/
def undoExponent (mode : Mode) (r : Nat) : Nat := sboxExponent mode (r + 1)

/-- Row r of an m×m table times the column v, modulo p (R203). -/
def rowTimes (m : Nat) (t : Table) (r : Nat) (v : Nat → Nat) : Nat :=
  (∑ c ∈ Finset.range m, (tableEntry t r c).toNat * v c) % P

/-- `st` is the sequence of states of `perm_states` on the column v, as integers (R240). -/
def PermStates (d : Descriptor) (v : Nat → Nat) (st : Nat → Nat → Nat) : Prop :=
  (∀ i < d.m.toNat, st 0 i = (v i + (tableEntry d.k 0 i).toNat) % P) ∧
  ∀ r < 2 * d.n.toNat, ∀ i < d.m.toNat,
    st (r + 1) i = (rowTimes d.m.toNat d.mds i (fun j => st r j ^ sboxExponent d.mode r)
      + (tableEntry d.k (r + 1) i).toNat) % P

/-- `u` is the sequence of columns of `permute_inverse` on the column v, the last sub-round undone
first, as integers (R241). -/
def UndoStates (d : Descriptor) (v : Nat → Nat) (u : Nat → Nat → Nat) : Prop :=
  (∀ i < d.m.toNat, u (2 * d.n.toNat) i = v i) ∧
  ∀ r < 2 * d.n.toNat, ∀ i < d.m.toNat,
    u r i = rowTimes d.m.toNat d.mdsi i
      (fun j => u (r + 1) j + (P - (tableEntry d.k (r + 1) j).toNat)) ^ undoExponent d.mode r % P

/-! ### Descriptors -/

/-- `MDS[r][c]` is 1/(r+c+2) and `MDSI` is the inverse matrix, both padded with zeros (R27, R228,
R229). -/
abbrev MdsPair (m : Nat) (mds mdsi : Table) : Prop :=
  (∀ r < m, ∀ c < m, (tableEntry mds r c).toNat * (r + c + 2) % P = 1) ∧
  (∀ r < m, ∀ c < m,
    rowTimes m mds r (fun j => (tableEntry mdsi j c).toNat) = if r = c then 1 else 0) ∧
  (∀ r < 12, ∀ c < 12, Canonical (tableEntry mds r c) ∧ Canonical (tableEntry mdsi r c)) ∧
  ∀ r < 12, ∀ c < 12, m ≤ r ∨ m ≤ c → tableEntry mds r c = 0 ∧ tableEntry mdsi r c = 0

/-- The subkeys are canonical, and 0 beyond the 2N + 1 subkeys of m elements (R27). -/
abbrev SubkeysPadded (d : Descriptor) : Prop :=
  ∀ t < 71, ∀ i < 12, Canonical (tableEntry d.k t i) ∧
    (2 * d.n.toNat < t ∨ d.m.toNat ≤ i → tableEntry d.k t i = 0)

/-- The capacity of a valid slot: in 1..m−1 in hash mode, 0 in cipher mode (R27). -/
abbrev CapFits (d : Descriptor) : Prop :=
  (d.mode = .hash → 1 ≤ d.cap.toNat ∧ d.cap.toNat < d.m.toNat) ∧
  (d.mode = .cipher → d.cap.toNat = 0)

/-- The round count of a valid slot (R27, R224, R225). -/
abbrev RoundsFit (d : Descriptor) : Prop :=
  (d.mode = .hash → d.n.toNat = roundsHash d.m.toNat d.cap.toNat) ∧
  (d.mode = .cipher → d.n.toNat = roundsCipher d.m.toNat)

/-- What holds of every valid slot (R27, R220). -/
abbrev ValidDescriptor (d : Descriptor) : Prop :=
  d.valid = true ∧ 2 ≤ d.m.toNat ∧ d.m.toNat ≤ 12 ∧ CapFits d ∧ RoundsFit d ∧ d.n.toNat ≤ 35 ∧
  MdsPair d.m.toNat d.mds d.mdsi ∧ SubkeysPadded d ∧
  (d.mode = .hash → ∀ i < 12, tableEntry d.k 0 i = 0)

/-- A slot is all zero or holds a descriptor as a construction leaves it (R27, R44, R246). -/
abbrev SlotInv (d : Descriptor) : Prop :=
  d = Descriptor.cleared ∨ ValidDescriptor d

/-- d is `build(Hash, m, cap, none)` for the XOF answer bs (R220, R225, R228, R229, R235). -/
def HashDescriptor (m cap : Nat) (bs : List Byte) (d : Descriptor) : Prop :=
  d.valid = true ∧ d.mode = .hash ∧ d.m.toNat = m ∧ d.cap.toNat = cap ∧
  d.n.toNat = roundsHash m cap ∧ MdsPair m d.mds d.mdsi ∧ SubkeysPadded d ∧
  (∀ i < m, tableEntry d.k 0 i = 0) ∧
  ∀ t < 2 * d.n.toNat, ∀ i < m, (tableEntry d.k (t + 1) i).toNat = chunkValue bs (t * m + i)

/-- `raw` is the sequence of raw constants of the cipher mode: r₀, then `C·raw + c` (R233, R234). -/
def RawConstants (m : Nat) (bs : List Byte) (n : Nat) (raw : Nat → Nat → Nat) : Prop :=
  (∀ i < m, raw 0 i = chunkValue bs (m * m + i)) ∧
  ∀ t < 2 * n, ∀ i < m,
    raw (t + 1) i = (∑ j ∈ Finset.range m, chunkValue bs (i * m + j) * raw t j
      + chunkValue bs (m * m + m + i)) % P

/-- d is `build(Cipher, m, 0, key)` for the XOF answer bs, the key as integers (R220, R224, R228, R229,
R242). -/
def CipherDescriptor (m : Nat) (key : Nat → Nat) (bs : List Byte) (d : Descriptor) : Prop :=
  d.valid = true ∧ d.mode = .cipher ∧ d.m.toNat = m ∧ d.cap.toNat = 0 ∧
  d.n.toNat = roundsCipher m ∧ MdsPair m d.mds d.mdsi ∧ SubkeysPadded d ∧
  ∃ raw : Nat → Nat → Nat, RawConstants m bs (roundsCipher m) raw ∧
    (∀ i < m, (tableEntry d.k 0 i).toNat = (key i + raw 0 i) % P) ∧
    ∀ t < 2 * roundsCipher m, ∀ i < m,
      (tableEntry d.k (t + 1) i).toNat =
        (rowTimes m d.mds i (fun j => (tableEntry d.k t j).toNat ^ sboxExponent .cipher t)
          + raw (t + 1) i) % P

/-! ### The invariant -/

/-- Every element register, every lane of `S`, `NONCE` and every `KS[i]` is canonical (R22). -/
abbrev ElementsInv (s : State) : Prop :=
  (∀ a ∈ s.x.toList, Canonical a) ∧ (∀ a ∈ s.svec.toList, Canonical a) ∧ Canonical s.nonce ∧
  ∀ a ∈ s.ks.toList, Canonical a

/-- The invariant of the sponge bookkeeping (R282). -/
abbrev SpongeInv (s : State) : Prop :=
  if s.hph = .idle then
    s.hslot = .pd0 ∧ s.hrate = 0 ∧ s.hdlen = 0 ∧ s.hpos = 0
  else
    (s.slot s.hslot).valid = true ∧ (s.slot s.hslot).mode = .hash ∧
    s.hrate.toNat = (s.slot s.hslot).m.toNat - (s.slot s.hslot).cap.toNat ∧ 1 ≤ s.hrate.toNat ∧
    s.hdlen.toNat ≤ (s.slot s.hslot).m.toNat ∧ s.hpos.toNat < s.hrate.toNat

/-- The invariant of the cipher bookkeeping (R300). -/
abbrev CipherInv (s : State) : Prop :=
  if s.crdy then
    s.pd1.valid = true ∧ s.pd1.mode = .cipher ∧ s.pd1.m.toNat = 5 ∧ s.pd1.n.toNat = 10 ∧
    s.nonce.toNat < 2 ^ 128 ∧ s.kpos.toNat ≤ 5
  else
    s.nonce = 0 ∧ s.ctr = 0 ∧ s.ks = Vector.replicate 5 0 ∧ s.kpos = 0

/-- The invariant of the handshake and of the recorded error (R25, R35, R70, R71, R341): `BUSY` says
whether a command is pending, a pending command has cleared `DONE` and met `ERR` = 0, a recorded error
has a code in 1..6 and leaves `DONE` = 1. -/
abbrev HandshakeInv (s : State) : Prop :=
  s.busy = s.pending.isSome ∧ (s.busy = true → s.done = false ∧ s.err = false) ∧
  (s.err = true → s.done = true ∧ 1 ≤ s.errcode.toNat ∧ s.errcode.toNat ≤ 6) ∧
  (s.err = false → s.errcode = 0)

/-- The invariant every step keeps. -/
abbrev Inv (s : State) : Prop :=
  ElementsInv s ∧ SlotInv s.pd0 ∧ SlotInv s.pd1 ∧ SpongeInv s ∧ CipherInv s ∧ HandshakeInv s

/-! ### The bus -/

/-- A read of the register at `addr` answers v and changes nothing of the unit (R73). -/
def ReadsAs (s : State) (addr v : Nat) : Prop :=
  busRead addr 4 s = .next { s with rdata := some (BitVec.ofNat 32 v) }

/-- `PDINFO` of a slot as an integer (R39). -/
def infoValue (d : Descriptor) : Nat :=
  if d.valid then
    d.m.toNat + 2 ^ 4 * d.cap.toNat + 2 ^ 8 * d.n.toNat
      + 2 ^ 14 * (if d.mode = .cipher then 1 else 0) + 2 ^ 15
  else 0

/-- `HPH` as an integer (R29). -/
def phaseValue : Phase → Nat
  | .idle => 0
  | .absorb => 1
  | .squeeze => 2

/-! ### The keystream (R300) -/

/-- a is the keystream element the next stream command takes, and t is s with `KS`, `CTR`, `KPOS`
advanced (R300 `next_ks`): within a block the next element of `KS`, at its end element 0 of the
permutation of (NONCE, CTR, 0, 0, 0). -/
def NextKeystream (s : State) (a : Elem) (t : State) : Prop :=
  (∃ h : s.kpos.toNat < 5, a = s.ks.get ⟨s.kpos.toNat, h⟩ ∧ t = { s with kpos := s.kpos + 1 }) ∨
  (s.kpos.toNat = 5 ∧ s.ctr.toNat < 2 ^ 64 - 1 ∧
    ∃ (st : Nat → Nat → Nat) (block : Vector Elem 5),
      PermStates s.pd1
        (fun i => if i = 0 then s.nonce.toNat else if i = 1 then s.ctr.toNat else 0) st ∧
      (∀ i : Fin 5, (block.get i).toNat = st (2 * s.pd1.n.toNat) i.val) ∧
      a = block.get 0 ∧ t = { s with ks := block, ctr := s.ctr + 1, kpos := 1 })

/-! ### The stream position of the cipher (R300) -/

/-- n stream commands have run since `CNONCE`: the next one uses K_{j,i} with j = n div 5,
i = n mod 5. -/
def AtStreamPosition (s : State) (n : Nat) : Prop :=
  s.crdy = true ∧
  if n = 0 then s.ctr.toNat = 0 ∧ s.kpos.toNat = 5
  else
    s.ctr.toNat = (n - 1) / 5 + 1 ∧ s.kpos.toNat = (n - 1) % 5 + 1 ∧
    s.ks.toList = keystreamBlock s.pd1 s.nonce ((n - 1) / 5)

end Sys2Proof.Machine
end

