-- ==== Sys2Proof/Certificates/Slice0/Obligations.lean ====
section
/-! DEFINITION. The statements for the provers.  `after t` is t with the common completion, `afterError
s e` is s with the error e recorded and completed, `withReg s rd v` is s with `x[rd]` = v: an equation
`exec i s = .next (after …)` says the result, the completion, and that nothing else changed. -/

open Sys2Proof Sys2Proof.Machine

/-! ### Encoding -/

/-- R90 to R101: decoding the word of a well-formed command gives the command back, with every operand
at every value the encoding admits. -/
def Obligations.DecodeOfEncode : Prop :=
  ∀ i : Instr, i.WellFormed → decodeWord (encode i) = .ok i

/-- R101: a word that decodes is the word of the command it decodes to; no bit is dropped. -/
def Obligations.EncodeOfDecode : Prop :=
  ∀ (w : Word) (i : Instr), decodeWord w = .ok i → encode i = w ∧ i.WellFormed

/-- R100, R102: the rows of the opcode map are disjoint, and the decoder refuses exactly the illegal
words: those of no row, and `PDINIT.C` with kb + m > 16. -/
def Obligations.IllegalWordsExactly : Prop :=
  (∀ w : Word, ∀ r ∈ opcodeMap, ∀ r' ∈ opcodeMap,
    w &&& r.mask = r.value → w &&& r'.mask = r'.value → r = r') ∧
  ∀ w : Word, (∃ e, decodeWord w = .error e) ↔ IllegalWord w

/-- R90 to R100: words written out from the encoding tables decode to the commands they stand for. -/
def Obligations.WrittenWordsDecode : Prop :=
  decodeWord 0x00000000#32 = .ok .nop ∧
  decodeWord 0x10312000#32 = .ok (.fadd 3 1 2) ∧
  decodeWord 0x0410000A#32 = .ok (.fldi 1 10) ∧
  decodeWord 0x05700020#32 = .ok (.fld 7 32) ∧
  decodeWord 0x201C0500#32 = .ok (.pdinitC .pd1 5 1) ∧
  decodeWord 0x24694400#32 = .ok (.pdrdk 6 .pd1 20 4) ∧
  decodeWord 0x43900100#32 = .ok (.hsqz 9 1) ∧
  decodeWord 0x55300020#32 = .ok (.cdecb 3 32)

/-- R71: when the unit's turn comes (the environment waits, or has no event left), a step completes the
pending command: it is `exec` of the decoded command, with the event gone from the script; and the state
`withFetchWord` makes runs the word at the very next step (the model's script: log entry 4). -/
def Obligations.StepRunsDecodedCommand : Prop :=
  (∀ (s : State) (w : Word) (i : Instr) (es : List Event), s.script = .wait :: es →
    s.pending = some w → decodeWord w = .ok i → step s = exec i { s with script := es }) ∧
  (∀ (s : State) (w : Word) (i : Instr), s.script = [] →
    s.pending = some w → decodeWord w = .ok i → step s = exec i s) ∧
  ∀ (s : State) (w : Word) (i : Instr), decodeWord w = .ok i →
    step (s.withFetchWord 32 w.toNat) =
      exec i { s with pending := some w, busy := true, done := false }

/-! ### The bus, command issue, reset, errors -/

/-- R70: a write to `CMD` while the unit is not busy: dropped while `ERR` = 1, else accepted. -/
def Obligations.CommandIssue : Prop :=
  ∀ (s : State) (w : Word), s.busy = false →
    (s.err = true → busWrite 0x00 4 w s = .next s) ∧
    (s.err = false →
      busWrite 0x00 4 w s = .next { s with pending := some w, busy := true, done := false })

/-- R347: an accepted word that is illegal by R102 completes by raising `IllegalCommand`, code 6, whatever
the state. -/
def Obligations.IllegalWordRaises : Prop :=
  ErrKind.illegalCommand.code = 6 ∧
  ∀ (s : State) (w : Word), s.pending = some w → IllegalWord w →
    unitTurn s = .next (afterError s .illegalCommand)

/-- R34, R35, R37 to R41: what the read-only and read-write registers answer while the unit is not
busy, without a side effect; the answer stands in the model's field `rdata` (log entry 4). -/
def Obligations.RegisterReads : Prop :=
  ∀ s : State, s.busy = false →
    ReadsAs s 0x04 (2 * s.done.toNat + 4 * s.err.toNat + 8 * s.eq.toNat + 16 * s.pd0.valid.toNat
      + 32 * s.pd1.valid.toNat + 64 * s.crdy.toNat + 256 * phaseValue s.hph) ∧
    ReadsAs s 0x08 s.errcode.toNat ∧
    ReadsAs s 0x10 (s.exp.toNat % 2 ^ 32) ∧ ReadsAs s 0x14 (s.exp.toNat / 2 ^ 32) ∧
    ReadsAs s 0x18 (infoValue s.pd0) ∧ ReadsAs s 0x1C (infoValue s.pd1) ∧
    ReadsAs s 0x20 (s.hrate.toNat + 2 ^ 4 * s.hdlen.toNat + 2 ^ 8 * s.hpos.toNat
      + 2 ^ 12 * phaseValue s.hph + 2 ^ 14 * (if s.hslot = .pd1 then 1 else 0)) ∧
    ReadsAs s 0x24 (s.ctr.toNat % 2 ^ 32) ∧ ReadsAs s 0x28 (s.ctr.toNat / 2 ^ 32) ∧
    ReadsAs s 0x2C 0x4D464131

/-- R61, R66, R68, R69: the `DOUT` window answers its bytes, low byte first; `CMD`, `CTRL`, the `DBUF`
window and the reserved offsets answer 0; the answer stands in the model's field `rdata` (log entry 4). -/
def Obligations.WindowReads : Prop :=
  ∀ s : State, s.busy = false →
    (∀ w < 8, ReadsAs s (0x80 + 4 * w)
      (∑ i ∈ Finset.range 4, (s.dout.toList.getD (4 * w + i) 0).toNat * 2 ^ (8 * i))) ∧
    (∀ w < 12, ReadsAs s (0x40 + 4 * w) 0) ∧
    (∀ w < 4, ReadsAs s (0x30 + 4 * w) 0 ∧ ReadsAs s (0x70 + 4 * w) 0) ∧
    (∀ w < 24, ReadsAs s (0xA0 + 4 * w) 0) ∧
    ReadsAs s 0x00 0 ∧ ReadsAs s 0x0C 0

/-- R61, R66, R38, R65: a write to word w of the `DBUF` window sets four bytes; writes to `EXPLO` and
`EXPHI` set halves of `EXP`; read-only registers, the `DOUT` window and every reserved offset ignore
writes. -/
def Obligations.BusWrites : Prop :=
  ∀ (s : State) (v : Word), s.busy = false →
    (∀ w < 12, ∃ u : Vector Byte 48,
      (∀ i : Fin 48, u.get i =
        if 4 * w ≤ i.val ∧ i.val < 4 * w + 4 then v.extractLsb' (8 * (i.val - 4 * w)) 8
        else s.dbuf.get i) ∧
      busWrite (0x40 + 4 * w) 4 v s = .next { s with dbuf := u }) ∧
    (∃ e : BitVec 64, e.toNat = s.exp.toNat / 2 ^ 32 * 2 ^ 32 + v.toNat ∧
      busWrite 0x10 4 v s = .next { s with exp := e }) ∧
    (∃ e : BitVec 64, e.toNat = v.toNat * 2 ^ 32 + s.exp.toNat % 2 ^ 32 ∧
      busWrite 0x14 4 v s = .next { s with exp := e }) ∧
    (∀ a ∈ [0x04, 0x08, 0x18, 0x1C, 0x20, 0x24, 0x28, 0x2C], busWrite a 4 v s = .next s) ∧
    (∀ w < 8, busWrite (0x80 + 4 * w) 4 v s = .next s) ∧
    (∀ w < 4, busWrite (0x30 + 4 * w) 4 v s = .next s ∧ busWrite (0x70 + 4 * w) 4 v s = .next s) ∧
    ∀ w < 24, busWrite (0xA0 + 4 * w) 4 v s = .next s

/-- R36, R332, R333, R356, R380, R381: a `CTRL` write with bits 31:2 zero and `SRST` = 1 resets the
unit in every state, busy or not, and so does the reset input; `CLRERR` alone, not busy, clears the
error and nothing else; a write of 0 does nothing; a write with a bit of 31:2 set is ignored as a
whole.  That a reset keeps the model's own fields `cfg`, `script`, `rdata` is the model's choice (log
entries 2 and 4). -/
def Obligations.ResetAndClearError : Prop :=
  ∀ s : State,
    (∀ v : Word, v = 1 ∨ v = 3 → busWrite 0x0C 4 v s =
      .next { State.reset with cfg := s.cfg, script := s.script, rdata := s.rdata }) ∧
    runEvent .hardReset s =
      .next { State.reset with cfg := s.cfg, script := s.script, rdata := s.rdata } ∧
    (s.busy = false →
      busWrite 0x0C 4 2 s = .next { s with err := false, errcode := 0 } ∧
      busWrite 0x0C 4 0 s = .next s ∧
      ∀ v : Word, 4 ≤ v.toNat → busWrite 0x0C 4 v s = .next s)

/-- R44: after the reset input or `CTRL.SRST`, whatever the state before, and in `State.reset`, every
piece of the unit's state is zero: both slots invalid and all zero, the phase IDLE, nothing pending. -/
def Obligations.ResetStateIsZero : Prop :=
  ∀ s t : State, runEvent .hardReset s = .next t ∨ busWrite 0x0C 4 1 s = .next t ∨ t = State.reset →
  (∀ r : Reg, t.reg r = 0) ∧ (∀ i : Fin 12, t.svec.get i = 0) ∧
  (∀ k : Slot, (t.slot k).valid = false ∧ (t.slot k).mode = .hash ∧
    (t.slot k).m = 0 ∧ (t.slot k).cap = 0 ∧ (t.slot k).n = 0 ∧
    (∀ i j : Fin 12, ((t.slot k).mds.get i).get j = 0) ∧
    (∀ i j : Fin 12, ((t.slot k).mdsi.get i).get j = 0) ∧
    ∀ (r : Fin 71) (i : Fin 12), ((t.slot k).k.get r).get i = 0) ∧
  t.hslot = .pd0 ∧ t.hrate = 0 ∧ t.hdlen = 0 ∧ t.hpos = 0 ∧
  t.hph = .idle ∧ t.crdy = false ∧ t.nonce = 0 ∧
  t.ctr = 0 ∧ (∀ i : Fin 5, t.ks.get i = 0) ∧ t.kpos = 0 ∧
  (∀ i : Fin 48, t.dbuf.get i = 0) ∧ (∀ i : Fin 32, t.dout.get i = 0) ∧
  t.exp = 0 ∧ t.busy = false ∧ t.done = false ∧
  t.err = false ∧ t.eq = false ∧ t.errcode = 0 ∧
  t.pending = none

/-- R63, R64, R69, R72, with the model's stops (log entries 5, 6, 8): while `BUSY` = 1 a read of
`STATUS` answers, a read of any other register or window is refused, as is a write to `CMD`, `EXP`,
the `DBUF` window or to `CTRL` without `SRST`, and the reserved offsets read 0 and ignore writes; a
misaligned, narrow or outside access is a fault of the host. -/
def Obligations.BusyAndMalformedAccesses : Prop :=
  (∀ s : State, s.busy = true →
    (∃ v : Word, v.getLsbD 0 = true ∧ busRead 0x04 4 s = .next { s with rdata := some v }) ∧
    (∀ a ∈ [0x00, 0x08, 0x0C, 0x10, 0x14, 0x18, 0x1C, 0x20, 0x24, 0x28, 0x2C],
      busRead a 4 s = .refused (.accessWhileBusy a)) ∧
    (∀ w < 12, busRead (0x40 + 4 * w) 4 s = .refused (.accessWhileBusy (0x40 + 4 * w))) ∧
    (∀ w < 8, busRead (0x80 + 4 * w) 4 s = .refused (.accessWhileBusy (0x80 + 4 * w))) ∧
    (∀ w < 4, ReadsAs s (0x30 + 4 * w) 0 ∧ ReadsAs s (0x70 + 4 * w) 0) ∧
    (∀ w < 24, ReadsAs s (0xA0 + 4 * w) 0) ∧
    ∀ v : Word,
      (∀ a ∈ [0x00, 0x10, 0x14], busWrite a 4 v s = .refused (.accessWhileBusy a)) ∧
      (∀ w < 12, busWrite (0x40 + 4 * w) 4 v s = .refused (.accessWhileBusy (0x40 + 4 * w))) ∧
      (∀ w < 4, busWrite (0x30 + 4 * w) 4 v s = .next s ∧
        busWrite (0x70 + 4 * w) 4 v s = .next s) ∧
      (∀ w < 24, busWrite (0xA0 + 4 * w) 4 v s = .next s) ∧
      (v.getLsbD 0 = false → busWrite 0x0C 4 v s = .refused (.accessWhileBusy 0x0C))) ∧
  ∀ (s : State) (a n : Nat) (v : Word), n ≠ 4 ∨ a % 4 ≠ 0 ∨ 0xFC < a →
    busRead a n s = .fault (.illegalBusAccess a n) ∧
    busWrite a n v s = .fault (.illegalBusAccess a n)

/-! ### BigInt256 and the field -/

/-- R121, R122: the sum with its carry and the difference with its borrow are exact. -/
def Obligations.BigIntSumAndDifference : Prop :=
  ∀ a b : BigInt256,
    (addWithCarry a b).1.toNat + 2 ^ 256 * (addWithCarry a b).2.toNat = a.toNat + b.toNat ∧
    (subWithBorrow a b).1.toNat + b.toNat = a.toNat + 2 ^ 256 * (subWithBorrow a b).2.toNat

/-- R16, R124, R125, R127, R128, R129: the masked select, the ordering, single bits, the bit length and
the 32-byte serialisation.  A bit index is below 256 by its type (log entry 13), and the bit length
of 0 is the model's 0 (log entry 16). -/
def Obligations.BigIntSelectBitsAndBytes : Prop :=
  (∀ (c : Bool) (u v : BigInt256), maskedSelect c u v = if c then u else v) ∧
  (∀ a b : BigInt256, (bigLt a b = true ↔ a.toNat < b.toNat) ∧ (bigLe a b = true ↔ a.toNat ≤ b.toNat) ∧
    (bigGt a b = true ↔ b.toNat < a.toNat) ∧ (bigGe a b = true ↔ b.toNat ≤ a.toNat)) ∧
  (∀ (a : BigInt256) (i j : Fin 256),
    bit (setBit a i) j = (decide (i = j) || bit a j) ∧
    bit (clearBit a i) j = (!decide (i = j) && bit a j)) ∧
  (∀ a : BigInt256, a.toNat < 2 ^ bitLength a ∧ ∀ n, a.toNat < 2 ^ n → bitLength a ≤ n) ∧
  (∀ a : BigInt256, (toLeBytes32 a).length = 32 ∧ fromLeBytes32 (toLeBytes32 a) = a) ∧
  ∀ bs : List Byte, bs.length = 32 → toLeBytes32 (fromLeBytes32 bs) = bs

/-- R150: the laws a conforming field arithmetic is tested against. -/
def Obligations.FieldLaws : Prop :=
  ∀ a b c : Elem, Canonical a → Canonical b → Canonical c →
    fadd a b = fadd b a ∧ fadd (fadd a b) c = fadd a (fadd b c) ∧ fmul a 1 = a ∧
    (a ≠ 0 → ∃ i, finv a = .ok i ∧ Canonical i ∧ fmul a i = 1) ∧ fadd (fneg a) a = 0 ∧
    (a ≠ 0 → pow a (BitVec.ofNat 256 (P - 1)) = 1) ∧ fsqr a = fmul a a ∧
    pow5 a = fmul (fmul (fmul (fmul a a) a) a) a ∧
    (toBytesLe a).length = 32 ∧ fromBytesLe (toBytesLe a) = .ok a

/-! ### Matrices and parameters -/

/-- R202: the product of matrices whose shapes fit, entry by entry, and the error of those whose shapes
do not. -/
def Obligations.MatrixProduct : Prop :=
  ∀ a b : Sys2Proof.Machine.Matrix,
    (a.cols ≠ b.rows → matmul a b = .error .dimensionMismatch) ∧
    (a.cols = b.rows → ∃ c, matmul a b = .ok c ∧ c.rows = a.rows ∧ c.cols = b.cols ∧ c.wf = true ∧
      ∀ i < a.rows, ∀ j < b.cols, (c.entry i j).toNat =
        (∑ t ∈ Finset.range a.cols, (a.entry i t).toNat * (b.entry t j).toNat) % P)

/-- R201, R204, R205: the accessors within and beyond the shape, entry-by-entry sum and difference of
matrices of one shape and the error of those of two, and the element-wise power. -/
def Obligations.MatrixElementwise : Prop :=
  ∀ a b : Sys2Proof.Machine.Matrix, a.wf = true → b.wf = true →
    (∀ i j, a.rows ≤ i ∨ a.cols ≤ j → mget a i j = .error .indexOutOfRange ∧
      ∀ v, mset a i j v = .error .indexOutOfRange) ∧
    (∀ i < a.rows, ∀ j < a.cols, ∀ v, ∃ c, mset a i j v = .ok c ∧ c.rows = a.rows ∧ c.cols = a.cols ∧
      ∀ i' < a.rows, ∀ j' < a.cols,
        mget c i' j' = if i' = i ∧ j' = j then .ok v else mget a i' j') ∧
    (a.rows ≠ b.rows ∨ a.cols ≠ b.cols →
      madd a b = .error .dimensionMismatch ∧ msub a b = .error .dimensionMismatch) ∧
    (a.rows = b.rows → a.cols = b.cols → ∃ c d, madd a b = .ok c ∧ msub a b = .ok d ∧
      c.rows = a.rows ∧ c.cols = a.cols ∧ d.rows = a.rows ∧ d.cols = a.cols ∧
      ∀ i < a.rows, ∀ j < a.cols,
        c.entry i j = fadd (a.entry i j) (b.entry i j) ∧
        d.entry i j = fsub (a.entry i j) (b.entry i j)) ∧
    ∀ e, (mpow a e).rows = a.rows ∧ (mpow a e).cols = a.cols ∧
      ∀ i < a.rows, ∀ j < a.cols, (mpow a e).entry i j = pow (a.entry i j) e

/-- R206, R207: `det` of a non-square matrix is an error; of a square one it is the determinant over
F_p. -/
def Obligations.DetIsDeterminant : Prop :=
  ∀ a : Sys2Proof.Machine.Matrix,
    (a.rows ≠ a.cols → det a = .error .invalidInput) ∧
    (a.rows = a.cols → (∀ x ∈ a.data, Canonical x) → ∃ d, det a = .ok d ∧ Canonical d ∧
      ((d.toNat : ZMod P)) = Matrix.det (n := Fin a.rows) (R := ZMod P)
        fun i j => ((a.entry i.val j.val).toNat : ZMod P))

/-- R228, R229: for every m in 2..12 the tables built from `cauchy(m)` and `cauchy_inverse(m)` hold
1/(r+c+2) and the inverse matrix. -/
def Obligations.MdsTablesAreInverse : Prop :=
  ∀ m, 2 ≤ m → m ≤ 12 → MdsPair m (padTable 12 (cauchy m)) (padTable 12 (cauchyInverse m))

/-- R226: the round counts of every configuration the unit admits. -/
def Obligations.RoundCountTable : Prop :=
  (List.range' 2 11).map roundsCipher = [24, 16, 12, 10, 10, 10, 10, 10, 10, 10, 10] ∧
  (List.range' 2 11).map (fun m => (List.range' 1 (m - 1)).map (roundsHash m)) =
    [[35], [26, 26], [20, 20, 20], [17, 17, 17, 17], [14, 14, 14, 14, 14], [12, 12, 12, 12, 12, 12],
      [11, 11, 11, 11, 11, 11, 11], [9, 9, 9, 9, 11, 11, 11, 11], [9, 9, 9, 9, 9, 9, 9, 9, 9],
      [8, 8, 8, 8, 9, 9, 9, 9, 9, 9], [8, 8, 8, 8, 8, 8, 8, 8, 8, 8, 8]]

/-! ### System and field commands -/

/-- R331, R171 to R174, R250: `NOP` does nothing but complete; `FZERO`, `FONE`, `FMOV`, `FLDI`, `PDRDAI`
write `x[rd]` and nothing else. -/
def Obligations.NopAndConstants : Prop :=
  ∀ (s : State) (rd ra : Reg) (imm16 : BitVec 16),
    exec .nop s = .next (after s) ∧
    exec (.fzero rd) s = .next (after (withReg s rd 0)) ∧
    exec (.fone rd) s = .next (after (withReg s rd 1)) ∧
    exec (.fmov rd ra) s = .next (after (withReg s rd (s.reg ra))) ∧
    (∃ v : Elem, v.toNat = imm16.toNat ∧ exec (.fldi rd imm16) s = .next (after (withReg s rd v))) ∧
    (∃ v : Elem, 5 * v.toNat = 3 * (P - 1) + 1 ∧
      exec (.pdrdai rd) s = .next (after (withReg s rd v))) ∧
    encode .nop = 0#32 ∧ encode (.fzero rd) = 0x01#8 ++ rd ++ 0#20 ∧
    encode (.fone rd) = 0x02#8 ++ rd ++ 0#20 ∧ encode (.fmov rd ra) = 0x03#8 ++ rd ++ ra ++ 0#16 ∧
    encode (.fldi rd imm16) = 0x04#8 ++ rd ++ 0#4 ++ imm16 ∧
    encode (.pdrdai rd) = 0x25#8 ++ rd ++ 0#20

/-- R179 to R181: sum, difference and negation modulo p, of canonical operands. -/
def Obligations.AddSubtractNegate : Prop :=
  ∀ (s : State) (rd ra rb : Reg), Canonical (s.reg ra) → Canonical (s.reg rb) →
    (∃ v : Elem, v.toNat = ((s.reg ra).toNat + (s.reg rb).toNat) % P ∧
      exec (.fadd rd ra rb) s = .next (after (withReg s rd v))) ∧
    (∃ v : Elem, v.toNat = ((s.reg ra).toNat + (P - (s.reg rb).toNat)) % P ∧
      exec (.fsub rd ra rb) s = .next (after (withReg s rd v))) ∧
    (∃ v : Elem, v.toNat = (P - (s.reg ra).toNat) % P ∧
      exec (.fneg rd ra) s = .next (after (withReg s rd v))) ∧
    encode (.fadd rd ra rb) = 0x10#8 ++ rd ++ ra ++ rb ++ 0#12 ∧
    encode (.fsub rd ra rb) = 0x11#8 ++ rd ++ ra ++ rb ++ 0#12 ∧
    encode (.fneg rd ra) = 0x12#8 ++ rd ++ ra ++ 0#16

/-- R182 to R184: product, square and fifth power modulo p, whatever the operands. -/
def Obligations.MultiplySquareFifth : Prop :=
  ∀ (s : State) (rd ra rb : Reg),
    (∃ v : Elem, v.toNat = (s.reg ra).toNat * (s.reg rb).toNat % P ∧
      exec (.fmul rd ra rb) s = .next (after (withReg s rd v))) ∧
    (∃ v : Elem, v.toNat = (s.reg ra).toNat ^ 2 % P ∧
      exec (.fsqr rd ra) s = .next (after (withReg s rd v))) ∧
    (∃ v : Elem, v.toNat = (s.reg ra).toNat ^ 5 % P ∧
      exec (.fpow5 rd ra) s = .next (after (withReg s rd v))) ∧
    encode (.fmul rd ra rb) = 0x13#8 ++ rd ++ ra ++ rb ++ 0#12 ∧
    encode (.fsqr rd ra) = 0x14#8 ++ rd ++ ra ++ 0#16 ∧
    encode (.fpow5 rd ra) = 0x15#8 ++ rd ++ ra ++ 0#16

/-- R186, R187: the power with the integer in `x[rb]`, respectively in `EXP`, as exponent. -/
def Obligations.Powers : Prop :=
  ∀ (s : State) (rd ra rb : Reg),
    (Canonical (s.reg rb) → ∃ v : Elem, v.toNat = (s.reg ra).toNat ^ (s.reg rb).toNat % P ∧
      exec (.fpow rd ra rb) s = .next (after (withReg s rd v))) ∧
    (∃ v : Elem, v.toNat = (s.reg ra).toNat ^ s.exp.toNat % P ∧
      exec (.fpowu rd ra) s = .next (after (withReg s rd v))) ∧
    encode (.fpow rd ra rb) = 0x17#8 ++ rd ++ ra ++ rb ++ 0#12 ∧
    encode (.fpowu rd ra) = 0x18#8 ++ rd ++ ra ++ 0#16

/-- R185, R162: `FINV` of a non-zero canonical element gives its inverse, the power p − 2; of 0 it
raises `InvalidInput`. -/
def Obligations.Inversion : Prop :=
  ∀ (s : State) (rd ra : Reg),
    (s.reg ra = 0 → exec (.finv rd ra) s = .next (afterError s .invalidInput)) ∧
    encode (.finv rd ra) = 0x16#8 ++ rd ++ ra ++ 0#16 ∧
    (s.reg ra ≠ 0 → Canonical (s.reg ra) →
      ∃ v : Elem, v.toNat = (s.reg ra).toNat ^ (P - 2) % P ∧ v.toNat * (s.reg ra).toNat % P = 1 ∧
        exec (.finv rd ra) s = .next (after (withReg s rd v)))

/-- R175, R176: `FLD` and `FLDW` load the leading bytes of `DBUF`, little-endian, reduced modulo p;
another length raises `InvalidInput`. -/
def Obligations.LoadBytes : Prop :=
  ∀ (s : State) (rd : Reg) (len : BitVec 6),
    (len.toNat ≤ 32 → ∃ v : Elem, v.toNat = leNat (s.dbuf.toList.take len.toNat) % P ∧
      exec (.fld rd len) s = .next (after (withReg s rd v))) ∧
    (32 < len.toNat → exec (.fld rd len) s = .next (afterError s .invalidInput)) ∧
    (len.toNat = 48 → ∃ v : Elem, v.toNat = leNat s.dbuf.toList % P ∧
      exec (.fldw rd len) s = .next (after (withReg s rd v))) ∧
    (len.toNat ≠ 48 → exec (.fldw rd len) s = .next (afterError s .invalidInput)) ∧
    encode (.fld rd len) = 0x05#8 ++ rd ++ 0#14 ++ len ∧
    encode (.fldw rd len) = 0x06#8 ++ rd ++ 0#14 ++ len

/-- R177, R178: `FST` leaves the 32 little-endian bytes of `x[ra]` in `DOUT`; `FEQ` writes `EQ`, 1 exactly
when the operands are equal; neither changes anything else. -/
def Obligations.StoreAndCompare : Prop :=
  ∀ (s : State) (ra rb : Reg),
    (∃ d : Vector Byte 32, leNat d.toList = (s.reg ra).toNat ∧
      exec (.fst ra) s = .next (after { s with dout := d })) ∧
    exec (.feq ra rb) s = .next (after { s with eq := decide ((s.reg ra).toNat = (s.reg rb).toNat) }) ∧
    encode (.fst ra) = 0x07#8 ++ 0#4 ++ ra ++ 0#16 ∧
    encode (.feq ra rb) = 0x08#8 ++ 0#4 ++ ra ++ rb ++ 0#12

/-! ### Descriptors -/

/-- R75: the SHAKE256 companion answers every request with exactly n bytes, so that under the spec's
configuration no construction fails for want of an answer.  That the function is that of FIPS 202 is
presumed (log entry 1). -/
def Obligations.ShakeAnswersExactly : Prop :=
  ∀ (seed : List Byte) (n : Nat), ∃ bs, xofAnswer .shake256 seed n = some bs ∧ bs.length = n

/-- R244, R220, R235: with m and cap in range and an answer of the companion, `PDINIT.H` puts the hash
descriptor of those parameters into the slot and resets the slot's users; a parameter out of range
raises `InvalidInput`, an answer `fail` raises `OperationError`. -/
def Obligations.HashConstruction : Prop :=
  ∀ (s : State) (k : Slot) (m cap : BitVec 4),
    encode (.pdinitH k m cap) = 0x20#8 ++ 0#4 ++ bitOfSlot k ++ 0#7 ++ m ++ cap ++ 0#4 ∧
    (m.toNat < 2 ∨ 12 < m.toNat ∨ cap.toNat = 0 ∨ m.toNat ≤ cap.toNat →
      exec (.pdinitH k m cap) s = .next (afterError s .invalidInput)) ∧
    (2 ≤ m.toNat → m.toNat ≤ 12 → 1 ≤ cap.toNat → cap.toNat < m.toNat →
      (xofAnswer s.cfg.xof (hashSeed m.toNat cap.toNat) (96 * m.toNat * roundsHash m.toNat cap.toNat)
          = none →
        exec (.pdinitH k m cap) s = .next (afterError s .operationError)) ∧
      ∀ bs : List Byte,
        xofAnswer s.cfg.xof (hashSeed m.toNat cap.toNat) (96 * m.toNat * roundsHash m.toNat cap.toNat)
          = some bs →
        bs.length = 96 * m.toNat * roundsHash m.toNat cap.toNat →
        ∃ d, HashDescriptor m.toNat cap.toNat bs d ∧
          exec (.pdinitH k m cap) s = .next (after (withNewSlot s k d)))

/-- R245, R220, R233, R234, R242, R236: with m in range, m key registers, an answer of the companion and
a non-singular C, `PDINIT.C` puts the cipher descriptor of that key into the slot and resets the slot's
users; m out of range raises `InvalidInput`, an answer `fail` or a singular C raises `OperationError`. -/
def Obligations.CipherConstruction : Prop :=
  ∀ (s : State) (k : Slot) (m : BitVec 4) (kb : Reg),
    encode (.pdinitC k m kb) = 0x20#8 ++ kb ++ bitOfSlot k ++ 1#1 ++ 0#6 ++ m ++ 0#8 ∧
    (16 < kb.toNat + m.toNat → decodeWord (encode (.pdinitC k m kb)) = .error .keyRange) ∧
    (m.toNat < 2 ∨ 12 < m.toNat → exec (.pdinitC k m kb) s = .next (afterError s .invalidInput)) ∧
    (2 ≤ m.toNat → m.toNat ≤ 12 →
      (xofAnswer s.cfg.xof cipherSeed (48 * (m.toNat * m.toNat + 2 * m.toNat)) = none →
        exec (.pdinitC k m kb) s = .next (afterError s .operationError)) ∧
      ∀ bs : List Byte,
        xofAnswer s.cfg.xof cipherSeed (48 * (m.toNat * m.toNat + 2 * m.toNat)) = some bs →
        bs.length = 48 * (m.toNat * m.toNat + 2 * m.toNat) →
        (det { rows := m.toNat, cols := m.toNat, data := elems (m.toNat * m.toNat) bs } = .ok 0 →
          exec (.pdinitC k m kb) s = .next (afterError s .operationError)) ∧
        (det { rows := m.toNat, cols := m.toNat, data := elems (m.toNat * m.toNat) bs } ≠ .ok 0 →
          kb.toNat + m.toNat ≤ 16 → (∀ a ∈ s.x.toList, Canonical a) →
          ∃ d,
            CipherDescriptor m.toNat (fun i => (s.x.toList.getD (kb.toNat + i) 0).toNat) bs d ∧
            exec (.pdinitC k m kb) s = .next (after (withNewSlot s k d))))

/-- R246, R389: `PDCLR` makes the slot all zero and resets the slot's users, whether or not the slot was
valid. -/
def Obligations.ClearSlot : Prop :=
  ∀ (s : State) (k : Slot), ∃ d : Descriptor,
    d.valid = false ∧ d.mode = .hash ∧ d.m = 0 ∧ d.cap = 0 ∧ d.n = 0 ∧
    (∀ r c, tableEntry d.mds r c = 0 ∧ tableEntry d.mdsi r c = 0) ∧ (∀ t i, tableEntry d.k t i = 0) ∧
    exec (.pdclr k) s = .next (after (withNewSlot s k d)) ∧
    encode (.pdclr k) = 0x21#8 ++ 0#4 ++ bitOfSlot k ++ 0#19

/-- R247 to R249: the read-outs of a valid slot within its bounds; `PDRDK` of a cipher-mode slot where the
configuration lets it read (spec/93 U9, log entry 3). -/
def Obligations.DescriptorReads : Prop :=
  ∀ (s : State) (rd : Reg) (k : Slot) (t : BitVec 7) (i j : BitVec 4), (s.slot k).valid = true →
    i.toNat < (s.slot k).m.toNat →
    (j.toNat < (s.slot k).m.toNat →
      exec (.pdrdm rd k i j) s =
        .next (after (withReg s rd (tableEntry (s.slot k).mds i.toNat j.toNat))) ∧
      exec (.pdrdmi rd k i j) s =
        .next (after (withReg s rd (tableEntry (s.slot k).mdsi i.toNat j.toNat)))) ∧
    (t.toNat ≤ 2 * (s.slot k).n.toNat →
      ((s.slot k).mode = .cipher → s.cfg.pdrdkCipherReadable = true) →
      exec (.pdrdk rd k t i) s =
        .next (after (withReg s rd (tableEntry (s.slot k).k t.toNat i.toNat))))

/-! ### The state vector and the permutation -/

/-- R251 to R253: `VZERO` clears all 12 lanes; `VLD` and `VST` move one element for i below 12 and raise
`IndexOutOfRange` from 12 on. -/
def Obligations.VectorMoves : Prop :=
  ∀ (s : State) (i : BitVec 4) (r : Reg),
    (∃ u : Vector Elem 12, (∀ j, u.get j = 0) ∧ exec .vzero s = .next (after { s with svec := u })) ∧
    (i.toNat < 12 →
      (∃ u : Vector Elem 12, (∀ j, u.get j = if j.val = i.toNat then s.reg r else s.svec.get j) ∧
        exec (.vld i r) s = .next (after { s with svec := u })) ∧
      ∃ v : Elem, (∀ j : Fin 12, j.val = i.toNat → v = s.svec.get j) ∧
        exec (.vst r i) s = .next (after (withReg s r v))) ∧
    (12 ≤ i.toNat →
      exec (.vld i r) s = .next (afterError s .indexOutOfRange) ∧
      exec (.vst r i) s = .next (afterError s .indexOutOfRange)) ∧
    encode .vzero = 0x28#8 ++ 0#24 ∧ encode (.vld i r) = 0x29#8 ++ r ++ 0#8 ++ i ++ 0#8 ∧
    encode (.vst r i) = 0x2A#8 ++ r ++ 0#8 ++ i ++ 0#8

/-- R254, R255: subkey t ≤ 2N is added to, respectively subtracted from, the first m lanes. -/
def Obligations.SubkeyLayers : Prop :=
  ∀ (s : State) (k : Slot) (t : BitVec 7), ElementsInv s → ValidDescriptor (s.slot k) →
    t.toNat ≤ 2 * (s.slot k).n.toNat →
    (∃ u : Vector Elem 12, (∀ j : Fin 12, (u.get j).toNat =
        if j.val < (s.slot k).m.toNat then
          ((s.svec.get j).toNat + (tableEntry (s.slot k).k t.toNat j.val).toNat) % P
        else (s.svec.get j).toNat) ∧
      exec (.vaddk k t) s = .next (after { s with svec := u })) ∧
    ∃ u : Vector Elem 12, (∀ j : Fin 12, (u.get j).toNat =
        if j.val < (s.slot k).m.toNat then
          ((s.svec.get j).toNat + (P - (tableEntry (s.slot k).k t.toNat j.val).toNat)) % P
        else (s.svec.get j).toNat) ∧
      exec (.vsubk k t) s = .next (after { s with svec := u })

/-- R256, R257: the fifth power, respectively the power α⁻¹, of each of the first m lanes. -/
def Obligations.SboxLayers : Prop :=
  ∀ (s : State) (k : Slot), (s.slot k).valid = true →
    (∃ u : Vector Elem 12, (∀ j : Fin 12, (u.get j).toNat =
        if j.val < (s.slot k).m.toNat then (s.svec.get j).toNat ^ 5 % P
        else (s.svec.get j).toNat) ∧
      exec (.vpowa k) s = .next (after { s with svec := u })) ∧
    ∃ u : Vector Elem 12, (∀ j : Fin 12, (u.get j).toNat =
        if j.val < (s.slot k).m.toNat then (s.svec.get j).toNat ^ ((3 * (P - 1) + 1) / 5) % P
        else (s.svec.get j).toNat) ∧
      exec (.vpowai k) s = .next (after { s with svec := u })

/-- R258, R259: the first m lanes times `MDS`, respectively `MDSI`. -/
def Obligations.MdsLayers : Prop :=
  ∀ (s : State) (k : Slot), (s.slot k).valid = true → (s.slot k).m.toNat ≤ 12 →
    (∃ u : Vector Elem 12, (∀ j : Fin 12, (u.get j).toNat =
        if j.val < (s.slot k).m.toNat then
          rowTimes (s.slot k).m.toNat (s.slot k).mds j.val (fun c => (s.lane c).toNat)
        else (s.svec.get j).toNat) ∧
      exec (.vmds k) s = .next (after { s with svec := u })) ∧
    ∃ u : Vector Elem 12, (∀ j : Fin 12, (u.get j).toNat =
        if j.val < (s.slot k).m.toNat then
          rowTimes (s.slot k).m.toNat (s.slot k).mdsi j.val (fun c => (s.lane c).toNat)
        else (s.svec.get j).toNat) ∧
      exec (.vmdsi k) s = .next (after { s with svec := u })

/-- R260, R261: forward sub-round t < 2N, and its inverse, on the first m lanes. -/
def Obligations.SubRounds : Prop :=
  ∀ (s : State) (k : Slot) (t : BitVec 7), ElementsInv s → ValidDescriptor (s.slot k) →
    t.toNat < 2 * (s.slot k).n.toNat →
    (∃ u : Vector Elem 12, (∀ j : Fin 12, (u.get j).toNat =
        if j.val < (s.slot k).m.toNat then
          (rowTimes (s.slot k).m.toNat (s.slot k).mds j.val
              (fun c => (s.lane c).toNat ^ sboxExponent (s.slot k).mode t.toNat)
            + (tableEntry (s.slot k).k (t.toNat + 1) j.val).toNat) % P
        else (s.svec.get j).toNat) ∧
      exec (.psub k t) s = .next (after { s with svec := u })) ∧
    ∃ u : Vector Elem 12, (∀ j : Fin 12, (u.get j).toNat =
        if j.val < (s.slot k).m.toNat then
          rowTimes (s.slot k).m.toNat (s.slot k).mdsi j.val
              (fun c => (s.lane c).toNat
                + (P - (tableEntry (s.slot k).k (t.toNat + 1) c).toNat))
            ^ undoExponent (s.slot k).mode t.toNat % P
        else (s.svec.get j).toNat) ∧
      exec (.psubi k t) s = .next (after { s with svec := u })

/-- R240, R262, R241, R263: `PERM` leaves the last of the 2N + 1 states of the permutation in the first
m lanes, `PERMI` the column the inverse permutation ends with. -/
def Obligations.Permutation : Prop :=
  ∀ (s : State) (k : Slot), ElementsInv s → ValidDescriptor (s.slot k) →
    (∃ (st : Nat → Nat → Nat) (u : Vector Elem 12),
      PermStates (s.slot k) (fun i => (s.lane i).toNat) st ∧
      (∀ j : Fin 12, (u.get j).toNat =
        if j.val < (s.slot k).m.toNat then st (2 * (s.slot k).n.toNat) j.val
        else (s.svec.get j).toNat) ∧
      exec (.perm k) s = .next (after { s with svec := u })) ∧
    ∃ (st : Nat → Nat → Nat) (u : Vector Elem 12),
      UndoStates (s.slot k) (fun i => (s.lane i).toNat) st ∧
      (∀ j : Fin 12, (u.get j).toNat =
        if j.val < (s.slot k).m.toNat then
          (st 0 j.val + (P - (tableEntry (s.slot k).k 0 j.val).toNat)) % P
        else (s.svec.get j).toNat) ∧
      exec (.permi k) s = .next (after { s with svec := u })

/-- R241, R263: `PERMI` after `PERM`, and `PERM` after `PERMI`, restore the state. -/
def Obligations.PermutationInvertible : Prop :=
  ∀ (s : State) (k : Slot), ElementsInv s → ValidDescriptor (s.slot k) →
    (∃ t, exec (.perm k) s = .next t ∧ exec (.permi k) t = .next (after s)) ∧
    ∃ t, exec (.permi k) s = .next t ∧ exec (.perm k) t = .next (after s)

/-- R257, R259, R261: each layer and its inverse, in both orders, restore the state. -/
def Obligations.LayersInvertible : Prop :=
  ∀ (s : State) (k : Slot) (t t' : BitVec 7), ElementsInv s → ValidDescriptor (s.slot k) →
    t.toNat < 2 * (s.slot k).n.toNat → t'.toNat ≤ 2 * (s.slot k).n.toNat →
    ∀ p ∈ [(Instr.vpowa k, Instr.vpowai k), (Instr.vpowai k, Instr.vpowa k),
        (Instr.vmds k, Instr.vmdsi k), (Instr.vmdsi k, Instr.vmds k),
        (Instr.vaddk k t', Instr.vsubk k t'), (Instr.vsubk k t', Instr.vaddk k t'),
        (Instr.psub k t, Instr.psubi k t), (Instr.psubi k t, Instr.psub k t)],
      ∃ u, exec p.1 s = .next u ∧ exec p.2 u = .next (after s)

/-- R260: `VADDK` with subkey 0, then `PSUB` 0 to 2N − 1, leave what `PERM` leaves. -/
def Obligations.PermIsItsSubRounds : Prop :=
  ∀ (s : State) (k : Slot), ValidDescriptor (s.slot k) → s.err = false →
    ∃ t, exec (.perm k) s = .next t ∧
      runCommands (.vaddk k 0 ::
        (List.range (2 * (s.slot k).n.toNat)).map fun r => .psub k (BitVec.ofNat 7 r)) s = some t

/-- R345: every command that needs a valid slot raises `OperationError` on an invalid one. -/
def Obligations.InvalidSlotRaises : Prop :=
  ∀ (s : State) (k : Slot) (rd : Reg) (t : BitVec 7) (i j : BitVec 4), (s.slot k).valid = false →
    ∀ c ∈ [Instr.pdrdm rd k i j, Instr.pdrdmi rd k i j, Instr.pdrdk rd k t i, Instr.vaddk k t,
        Instr.vsubk k t, Instr.vpowa k, Instr.vpowai k, Instr.vmds k, Instr.vmdsi k, Instr.psub k t,
        Instr.psubi k t, Instr.perm k, Instr.permi k, Instr.hinit k i],
      exec c s = .next (afterError s .operationError)

/-- R343: every index beyond its bound raises `IndexOutOfRange`, the slot being valid, respectively the
sponge squeezing. -/
def Obligations.IndexRaises : Prop :=
  (∀ (s : State) (k : Slot) (rd : Reg) (t : BitVec 7) (i j : BitVec 4), (s.slot k).valid = true →
    ((s.slot k).m.toNat ≤ i.toNat ∨ (s.slot k).m.toNat ≤ j.toNat →
      exec (.pdrdm rd k i j) s = .next (afterError s .indexOutOfRange) ∧
      exec (.pdrdmi rd k i j) s = .next (afterError s .indexOutOfRange)) ∧
    (2 * (s.slot k).n.toNat < t.toNat ∨ (s.slot k).m.toNat ≤ i.toNat →
      ((s.slot k).mode = .cipher → s.cfg.pdrdkCipherReadable = true) →
      exec (.pdrdk rd k t i) s = .next (afterError s .indexOutOfRange)) ∧
    (2 * (s.slot k).n.toNat < t.toNat →
      exec (.vaddk k t) s = .next (afterError s .indexOutOfRange) ∧
      exec (.vsubk k t) s = .next (afterError s .indexOutOfRange)) ∧
    (1 ≤ (s.slot k).n.toNat → 2 * (s.slot k).n.toNat - 1 < t.toNat →
      exec (.psub k t) s = .next (afterError s .indexOutOfRange) ∧
      exec (.psubi k t) s = .next (afterError s .indexOutOfRange))) ∧
  (∀ (s : State) (i : BitVec 4) (r : Reg), 12 ≤ i.toNat →
    exec (.vld i r) s = .next (afterError s .indexOutOfRange) ∧
    exec (.vst r i) s = .next (afterError s .indexOutOfRange)) ∧
  ∀ (s : State) (i : BitVec 4) (rd : Reg), s.hph = .squeeze → s.hdlen.toNat ≤ i.toNat →
    exec (.hsqz rd i) s = .next (afterError s .indexOutOfRange)

/-! ### The sponge -/

/-- R283: `HINIT` on a valid hash-mode slot with dlen ≤ m clears `S` and starts absorbing, in every
phase; an invalid or a cipher-mode slot raises `OperationError`, a larger dlen `InvalidInput`. -/
def Obligations.HashStart : Prop :=
  ∀ (s : State) (k : Slot) (dlen : BitVec 4),
    ((s.slot k).valid = false → exec (.hinit k dlen) s = .next (afterError s .operationError)) ∧
    ((s.slot k).valid = true → (s.slot k).mode = .cipher →
      exec (.hinit k dlen) s = .next (afterError s .operationError)) ∧
    ((s.slot k).valid = true → (s.slot k).mode = .hash → (s.slot k).m.toNat < dlen.toNat →
      exec (.hinit k dlen) s = .next (afterError s .invalidInput)) ∧
    (ValidDescriptor (s.slot k) → (s.slot k).mode = .hash → dlen.toNat ≤ (s.slot k).m.toNat →
      ∃ (u : Vector Elem 12) (r : BitVec 4), (∀ j, u.get j = 0) ∧
        r.toNat = (s.slot k).m.toNat - (s.slot k).cap.toNat ∧
        exec (.hinit k dlen) s = .next (after
          { s with svec := u, hslot := k, hrate := r, hdlen := dlen, hpos := 0, hph := .absorb })) ∧
    encode (.hinit k dlen) = 0x40#8 ++ 0#4 ++ bitOfSlot k ++ 0#7 ++ dlen ++ 0#8

/-- R284, R285: in the phase ABSORB `HABS` adds `x[ra]` to lane `HPOS` and, when the block is full,
permutes; `HFIN` adds 1, permutes and goes to SQUEEZE; in another phase both raise `OperationError`. -/
def Obligations.AbsorbAndFinish : Prop :=
  ∀ (s : State) (ra : Reg),
    encode (.habs ra) = 0x41#8 ++ 0#4 ++ ra ++ 0#16 ∧ encode .hfin = 0x42#8 ++ 0#24 ∧
    (s.hph ≠ .absorb →
      exec (.habs ra) s = .next (afterError s .operationError) ∧
      exec .hfin s = .next (afterError s .operationError)) ∧
    (Inv s → s.hph = .absorb →
    (s.hpos.toNat + 1 < s.hrate.toNat →
      ∃ (u : Vector Elem 12) (q : BitVec 4), q.toNat = s.hpos.toNat + 1 ∧
        (∀ j : Fin 12, (u.get j).toNat =
          if j.val = s.hpos.toNat then ((s.svec.get j).toNat + (s.reg ra).toNat) % P
          else (s.svec.get j).toNat) ∧
        exec (.habs ra) s = .next (after { s with svec := u, hpos := q })) ∧
    (s.hpos.toNat + 1 = s.hrate.toNat →
      ∃ (st : Nat → Nat → Nat) (u : Vector Elem 12),
        PermStates (s.slot s.hslot)
          (fun i => if i = s.hpos.toNat then ((s.lane i).toNat + (s.reg ra).toNat) % P
            else (s.lane i).toNat) st ∧
        (∀ j : Fin 12, (u.get j).toNat =
          if j.val < (s.slot s.hslot).m.toNat then st (2 * (s.slot s.hslot).n.toNat) j.val
          else (s.svec.get j).toNat) ∧
        exec (.habs ra) s = .next (after { s with svec := u, hpos := 0 })) ∧
    ∃ (st : Nat → Nat → Nat) (u : Vector Elem 12),
      PermStates (s.slot s.hslot)
        (fun i => if i = s.hpos.toNat then ((s.lane i).toNat + 1) % P else (s.lane i).toNat) st ∧
      (∀ j : Fin 12, (u.get j).toNat =
        if j.val < (s.slot s.hslot).m.toNat then st (2 * (s.slot s.hslot).n.toNat) j.val
        else (s.svec.get j).toNat) ∧
      exec .hfin s = .next (after { s with svec := u, hpos := 0, hph := .squeeze }))

/-- R286: in the phase SQUEEZE `HSQZ` copies lane i < `HDLEN`, and raises `IndexOutOfRange` beyond; in
another phase it raises `OperationError`. -/
def Obligations.Squeeze : Prop :=
  ∀ (s : State) (rd : Reg) (i : BitVec 4),
    (s.hph = .squeeze → i.toNat < s.hdlen.toNat →
      exec (.hsqz rd i) s = .next (after (withReg s rd (s.lane i.toNat)))) ∧
    (s.hph = .squeeze → s.hdlen.toNat ≤ i.toNat →
      exec (.hsqz rd i) s = .next (afterError s .indexOutOfRange)) ∧
    (s.hph ≠ .squeeze → exec (.hsqz rd i) s = .next (afterError s .operationError)) ∧
    encode (.hsqz rd i) = 0x43#8 ++ rd ++ 0#8 ++ i ++ 0#8

/-- R281: `HINIT`, one `HABS` an element, `HFIN`, then any `HSQZ`: the digest of the message. -/
def Obligations.StreamingIsDigest : Prop :=
  ∀ (s : State) (k : Slot) (dlen : BitVec 4) (ras : List Reg), Inv s → s.err = false →
    (s.slot k).valid = true → (s.slot k).mode = .hash → dlen.toNat ≤ (s.slot k).m.toNat →
    ∃ t, runCommands (.hinit k dlen :: ras.map .habs ++ [.hfin]) s = some t ∧
      ∀ (rd : Reg) (i : BitVec 4), i.toNat < dlen.toNat →
        exec (.hsqz rd i) t = .next (after (withReg t rd
          ((digest (s.slot k) ((s.slot k).m.toNat - (s.slot k).cap.toNat) (s.slot k).cap.toNat
            dlen.toNat (ras.map s.reg)).getD i.toNat 0)))

/-! ### The cipher -/

/-- R301, R311: `CKEY 32` builds the default hash descriptor, derives the key from the 32 secret bytes
in `DBUF`, builds the cipher descriptor, and clears `S`, the sponge, the cipher bookkeeping and `DBUF`;
another length raises `InvalidInput`; a companion that fails on either request, or a singular C, raises
`OperationError`, and nothing changes, `DBUF` included. -/
def Obligations.KeyLoad : Prop :=
  ∀ (s : State) (len : BitVec 6),
    encode (.ckey len) = 0x50#8 ++ 0#18 ++ len ∧
    (len.toNat ≠ 32 → exec (.ckey len) s = .next (afterError s .invalidInput)) ∧
    (xofAnswer s.cfg.xof (hashSeed 12 5) 9216 = none →
      exec (.ckey 32) s = .next (afterError s .operationError)) ∧
    (xofAnswer s.cfg.xof cipherSeed 1680 = none →
      exec (.ckey 32) s = .next (afterError s .operationError)) ∧
    (∀ b1 : List Byte, xofAnswer s.cfg.xof cipherSeed 1680 = some b1 → b1.length = 1680 →
      det { rows := 5, cols := 5, data := elems 25 b1 } = .ok 0 →
      exec (.ckey 32) s = .next (afterError s .operationError)) ∧
    ∀ b0 b1 : List Byte,
      xofAnswer s.cfg.xof (hashSeed 12 5) 9216 = some b0 → b0.length = 9216 →
      xofAnswer s.cfg.xof cipherSeed 1680 = some b1 → b1.length = 1680 →
      det { rows := 5, cols := 5, data := elems 25 b1 } ≠ .ok 0 →
      ∃ (d0 d1 : Descriptor) (z : Elem),
        z.toNat = leNat (s.dbuf.toList.take 32) % P ∧ HashDescriptor 12 5 b0 d0 ∧
        CipherDescriptor 5 (fun i => ((digest d0 7 5 5 [1, z, 5]).getD i 0).toNat) b1 d1 ∧
        exec (.ckey 32) s = .next (after
          { withSpongeIdle (withCipherIdle s) with
            pd0 := d0, pd1 := d1, svec := Vector.replicate 12 0, dbuf := Vector.replicate 48 0 })

/-- R311, R312: `CKEY 32` leaves in slot 1 the descriptor `cipher_new` answers for the 32 secret bytes,
and raises what `cipher_new` raises; `kdf` and `cipher_new` of a secret of another length are
`InvalidInput`, whatever the companion. -/
def Obligations.KeyLoadIsCipherNew : Prop :=
  (∀ s : State,
    (∀ d, cipherNew s.cfg.xof (s.dbuf.toList.take 32) = .ok d →
      ∃ t, exec (.ckey 32) s = .next t ∧ t.pd1 = d ∧ t.err = s.err) ∧
    ∀ e, cipherNew s.cfg.xof (s.dbuf.toList.take 32) = .error e →
      exec (.ckey 32) s = .next (afterError s e)) ∧
  ∀ (xof : Xof) (secret : List Byte), secret.length ≠ 32 →
    kdf xof secret = .error .invalidInput ∧ cipherNew xof secret = .error .invalidInput

/-- R302: `CNONCE 16` on a usable slot 1 loads the 16 nonce bytes and starts a message; the
checks come in the order state, shape, size. -/
def Obligations.NonceLoad : Prop :=
  ∀ (s : State) (len : BitVec 6),
    (s.pd1.valid = true → s.pd1.mode = .cipher → s.pd1.m.toNat = 5 → len.toNat = 16 →
      ∃ n : Elem, n.toNat = leNat (s.dbuf.toList.take 16) ∧ n.toNat < 2 ^ 128 ∧
        exec (.cnonce len) s = .next (after
          { s with nonce := n, ctr := 0, ks := Vector.replicate 5 0, kpos := 5, crdy := true })) ∧
    (s.pd1.valid = false ∨ s.pd1.mode = .hash →
      exec (.cnonce len) s = .next (afterError s .operationError)) ∧
    (s.pd1.valid = true → s.pd1.mode = .cipher → s.pd1.m.toNat ≠ 5 →
      exec (.cnonce len) s = .next (afterError s .dimensionMismatch)) ∧
    (s.pd1.valid = true → s.pd1.mode = .cipher → s.pd1.m.toNat = 5 → len.toNat ≠ 16 →
      exec (.cnonce len) s = .next (afterError s .invalidInput)) ∧
    encode (.cnonce len) = 0x51#8 ++ 0#18 ++ len

/-- R303 to R307: with a nonce loaded and the counter not exhausted, each stream command takes the next
keystream element and adds it to, or subtracts it from, its operand; without a nonce it raises
`OperationError`, `CDECB` with another length `InvalidInput`, a block beyond the counter `Overflow`. -/
def Obligations.StreamCommands : Prop :=
  ∀ (s : State) (rd ra : Reg) (len : BitVec 6),
    encode (.cenc rd ra) = 0x52#8 ++ rd ++ ra ++ 0#16 ∧
    encode (.cdec rd ra) = 0x53#8 ++ rd ++ ra ++ 0#16 ∧
    encode (.cencb ra) = 0x54#8 ++ 0#4 ++ ra ++ 0#16 ∧
    encode (.cdecb rd len) = 0x55#8 ++ rd ++ 0#14 ++ len ∧
    (s.crdy = false → ∀ c ∈ [Instr.cenc rd ra, Instr.cdec rd ra, Instr.cencb ra, Instr.cdecb rd len],
      exec c s = .next (afterError s .operationError)) ∧
    (s.crdy = true → len.toNat ≠ 32 →
      exec (.cdecb rd len) s = .next (afterError s .invalidInput)) ∧
    (s.crdy = true → s.kpos.toNat = 5 → s.ctr.toNat = 2 ^ 64 - 1 →
      ∀ c ∈ [Instr.cenc rd ra, Instr.cdec rd ra, Instr.cencb ra, Instr.cdecb rd 32],
        exec c s = .next (afterError s .overflow)) ∧
    (Inv s → s.crdy = true → (s.kpos.toNat = 5 → s.ctr.toNat < 2 ^ 64 - 1) →
      ∃ (a : Elem) (t : State), NextKeystream s a t ∧
        (∃ v : Elem, v.toNat = ((s.reg ra).toNat + a.toNat) % P ∧
          exec (.cenc rd ra) s = .next (after (withReg t rd v))) ∧
        (∃ v : Elem, v.toNat = ((s.reg ra).toNat + (P - a.toNat)) % P ∧
          exec (.cdec rd ra) s = .next (after (withReg t rd v))) ∧
        (∃ d : Vector Byte 32, leNat d.toList = ((s.reg ra).toNat + a.toNat) % P ∧
          exec (.cencb ra) s = .next (after { t with dout := d })) ∧
        ∃ v : Elem, v.toNat = (leNat (s.dbuf.toList.take 32) % P + (P - a.toNat)) % P ∧
          exec (.cdecb rd 32) s = .next (after (withReg t rd v)))

/-- R300, R313, R388: `CNONCE` sets the stream position to 0, and the stream command at position n,
whichever it is, uses K_{n div 5, n mod 5} and moves to position n + 1. -/
def Obligations.StreamPosition : Prop :=
  (∀ s : State, s.pd1.valid = true → s.pd1.mode = .cipher → s.pd1.m.toNat = 5 →
    ∃ t, exec (.cnonce 16) s = .next t ∧ AtStreamPosition t 0) ∧
  ∀ (s : State) (n : Nat) (rd ra : Reg), Inv s → AtStreamPosition s n → n < 5 * (2 ^ 64 - 1) →
    (∃ t, exec (.cenc rd ra) s = .next t ∧ AtStreamPosition t (n + 1) ∧ t.pd1 = s.pd1 ∧
      t.nonce = s.nonce ∧ t.reg rd = fadd (s.reg ra) (keystreamAt s.pd1 s.nonce n)) ∧
    (∃ t, exec (.cdec rd ra) s = .next t ∧ AtStreamPosition t (n + 1) ∧ t.pd1 = s.pd1 ∧
      t.nonce = s.nonce ∧ t.reg rd = fsub (s.reg ra) (keystreamAt s.pd1 s.nonce n)) ∧
    (∃ t, exec (.cencb ra) s = .next t ∧ AtStreamPosition t (n + 1) ∧ t.pd1 = s.pd1 ∧
      t.nonce = s.nonce ∧
      t.dout.toList = toBytesLe (fadd (s.reg ra) (keystreamAt s.pd1 s.nonce n))) ∧
    ∃ (t : State) (c : Elem), exec (.cdecb rd 32) s = .next t ∧ AtStreamPosition t (n + 1) ∧
      t.pd1 = s.pd1 ∧ t.nonce = s.nonce ∧ fromBytesLe (s.dbuf.toList.take 32) = .ok c ∧
      t.reg rd = fsub c (keystreamAt s.pd1 s.nonce n)

/-- R316: decryption of an encrypted message gives the message back, as elements and through the byte
variants, and the ciphertext of a prefix is a prefix of the ciphertext.  A message has at most the
5(2^64 − 1) elements the unit encrypts after one `CNONCE` (log entry 17). -/
def Obligations.CipherRoundTrip : Prop :=
  ∀ (d : Descriptor) (nonce : Elem) (pt : List Elem), ValidDescriptor d → d.m.toNat = 5 →
    Canonical nonce → pt.length ≤ 5 * (2 ^ 64 - 1) → (∀ a ∈ pt, Canonical a) →
    decryptRaw d nonce (encryptRaw d nonce pt) = pt ∧
    decryptBytes d nonce (encryptBytes d nonce pt) = .ok pt ∧
    ∀ n, encryptRaw d nonce (pt.take n) = (encryptRaw d nonce pt).take n

/-! ### The whole machine -/

/-- R22, R27, R282, R300: the invariant holds after reset. -/
def Obligations.InvAtReset : Prop := Inv State.reset

/-- R22, R27, R282, R300: every step keeps the invariant: elements canonical, slots all zero or as a
construction leaves them, the sponge and cipher bookkeeping consistent with their slots, the handshake
consistent. -/
def Obligations.StepKeepsInv : Prop :=
  ∀ s t : State, Inv s → step s = .next t → Inv t

/-- R71, R83: every command, in every state, completes: a next state with nothing pending, `BUSY` = 0,
`DONE` = 1, the configuration and the environment as they were. -/
def Obligations.EveryCommandCompletes : Prop :=
  ∀ (i : Instr) (s : State), ∃ t, exec i s = .next t ∧ t.pending = none ∧ t.busy = false ∧
    t.done = true ∧ t.cfg = s.cfg ∧ t.script = s.script ∧ t.rdata = s.rdata

/-- R341, R350: errors are precise, and the codes are 1 to 6: a command that raises records one of the
five kinds a meaning raises and leaves every piece of state but `ERR`, `ERRCODE` and the handshake as it
was; one that does not raise leaves `ERR` and `ERRCODE`. -/
def Obligations.ErrorsArePrecise : Prop :=
  ErrKind.invalidInput.code = 1 ∧ ErrKind.indexOutOfRange.code = 2 ∧
  ErrKind.dimensionMismatch.code = 3 ∧ ErrKind.operationError.code = 4 ∧
  ErrKind.overflow.code = 5 ∧ ErrKind.illegalCommand.code = 6 ∧
  ∀ (i : Instr) (s t : State), s.err = false → exec i s = .next t →
    (∃ e : ErrKind, e ≠ .illegalCommand ∧ t = afterError s e) ∨
    (t.err = false ∧ t.errcode = s.errcode)

/-- R25, R28, R31, R32, R38, R30: which commands can write which state: `EQ` only `FEQ`, `DBUF` only
`CKEY`, `DOUT` only `FST` and `CENCB`, `EXP` none, a slot only the constructions, `PDCLR` and `CKEY`, the
cipher bookkeeping only those and the cipher commands. -/
def Obligations.OwnersOfState : Prop :=
  ∀ (i : Instr) (s t : State), exec i s = .next t →
    t.exp = s.exp ∧
    ((∀ ra rb, i ≠ .feq ra rb) → t.eq = s.eq) ∧
    ((∀ len, i ≠ .ckey len) → t.dbuf = s.dbuf) ∧
    ((∀ ra, i ≠ .fst ra) → (∀ ra, i ≠ .cencb ra) → t.dout = s.dout) ∧
    ((∀ k m cap, i ≠ .pdinitH k m cap) → (∀ k m kb, i ≠ .pdinitC k m kb) → (∀ k, i ≠ .pdclr k) →
      (∀ len, i ≠ .ckey len) →
      t.pd0 = s.pd0 ∧ t.pd1 = s.pd1 ∧
      ((∀ len, i ≠ .cnonce len) → t.crdy = s.crdy ∧ t.nonce = s.nonce ∧
        ((∀ rd ra, i ≠ .cenc rd ra) → (∀ rd ra, i ≠ .cdec rd ra) → (∀ ra, i ≠ .cencb ra) →
          (∀ rd len, i ≠ .cdecb rd len) → t.ctr = s.ctr ∧ t.ks = s.ks ∧ t.kpos = s.kpos)))

/-- R31, R41, R43, R365: no bus read's answer depends on the element registers, `S`, the tables, `NONCE`,
`KS`, `KPOS` or `DBUF`: two states that differ only there answer every read alike. -/
def Obligations.BusCannotSeeSecrets : Prop :=
  ∀ (s : State) (x : Vector Elem 16) (svec : Vector Elem 12) (mds0 mdsi0 mds1 mdsi1 : Table)
    (k0 k1 : SubkeyTable) (nonce : Elem) (ks : Vector Elem 5) (kpos : BitVec 3)
    (dbuf : Vector Byte 48) (addr n : Nat) (t : State), busRead addr n s = .next t →
    ∃ t', busRead addr n
        { s with
          x := x, svec := svec, nonce := nonce, ks := ks, kpos := kpos, dbuf := dbuf,
          pd0 := { s.pd0 with mds := mds0, mdsi := mdsi0, k := k0 },
          pd1 := { s.pd1 with mds := mds1, mdsi := mdsi1, k := k1 } } = .next t' ∧
      t'.rdata = t.rdata
end

