-- ==== Sys2Proof/Laws/Field.lean ====
section
/-! SUPPORT. The value each field procedure yields, as an integer modulo p (spec/41_field.md R150). -/

namespace Sys2Proof.Machine

theorem pWord_toNat : pWord.toNat = P := rfl

theorem P_lt : P < 2 ^ 255 := by decide

theorem two_P_add : 2 ^ 256 = 2 * P + 38 := by decide

/-! ### Bytes -/

theorem leNat_lt (bs : List Byte) : leNat bs < 256 ^ bs.length := by
  induction bs with
  | nil => simp [leNat]
  | cons b bs ih =>
    have := b.isLt
    simp only [leNat, List.length_cons, pow_succ]
    omega

theorem leBytes_length (n v : Nat) : (leBytes n v).length = n := by
  induction n generalizing v with
  | zero => rfl
  | succ n ih => simp [leBytes, ih]

theorem leNat_leBytes (n v : Nat) : leNat (leBytes n v) = v % 256 ^ n := by
  induction n generalizing v with
  | zero => simp [leBytes, leNat, Nat.mod_one]
  | succ n ih =>
    rw [leBytes, leNat, ih, BitVec.toNat_ofNat, show 2 ^ 8 = 256 from rfl, Nat.pow_succ' (m := 256),
      Nat.mod_mul]

/-! ### One conditional subtraction and the sum, difference, negation -/

theorem condSub_toNat (v : BigInt256) :
    (condSub v).toNat = if v.toNat < P then v.toNat else v.toNat - P := by
  have hv := v.isLt
  unfold condSub subWithBorrow select
  by_cases h : v.toNat < P
  · simp [pWord_toNat, h]
  · simp only [pWord_toNat, h, decide_false, Bool.false_eq_true, if_false]
    rw [BitVec.toNat_sub_of_le (by rw [BitVec.le_def, pWord_toNat]; omega), pWord_toNat]

/-- R155: the reducing constructor. -/
theorem reduce256_toNat (v : BigInt256) : (reduce256 v).toNat = v.toNat % P := by
  have hv := v.isLt
  have h2 := two_P_add
  unfold reduce256
  rw [condSub_toNat, condSub_toNat]
  by_cases h : v.toNat < P
  · rw [if_pos h, if_pos h, Nat.mod_eq_of_lt h]
  · rw [if_neg h]
    by_cases h' : v.toNat - P < P
    · rw [if_pos h', Nat.mod_eq_sub_mod (by omega), Nat.mod_eq_of_lt h']
    · have : v.toNat - P - P < P := by unfold P at *; omega
      rw [if_neg h', Nat.mod_eq_sub_mod (by omega), Nat.mod_eq_sub_mod (by omega),
        Nat.mod_eq_of_lt this]

/-- R151. -/
theorem fadd_toNat {a b : Elem} (ha : a.toNat < P) (hb : b.toNat < P) :
    (fadd a b).toNat = (a.toNat + b.toNat) % P := by
  have h2 := two_P_add
  have hs : (a + b).toNat = a.toNat + b.toNat := by
    rw [BitVec.toNat_add, Nat.mod_eq_of_lt (by omega)]
  have hc : ¬ 2 ^ 256 ≤ a.toNat + b.toNat := by omega
  unfold fadd addWithCarry subWithBorrow select
  simp only [hc, decide_false, Bool.false_or, Bool.not_eq_true', decide_eq_false_iff_not, hs,
    pWord_toNat]
  by_cases h : a.toNat + b.toNat < P
  · simp only [h, not_true_eq_false, if_false, hs, Nat.mod_eq_of_lt h]
  · simp only [h, not_false_eq_true, if_true]
    rw [BitVec.toNat_sub_of_le (by rw [BitVec.le_def, hs, pWord_toNat]; omega), hs, pWord_toNat,
      Nat.mod_eq_sub_mod (by omega), Nat.mod_eq_of_lt (by omega)]

/-- R152. -/
theorem fsub_toNat {a b : Elem} (ha : a.toNat < P) (hb : b.toNat < P) :
    (fsub a b).toNat = (a.toNat + (P - b.toNat)) % P := by
  have h2 := two_P_add
  unfold fsub addWithCarry subWithBorrow select
  simp only [decide_eq_true_eq]
  split
  · rename_i h
    have hd : (a - b).toNat = 2 ^ 256 - b.toNat + a.toNat := by
      rw [BitVec.toNat_sub, Nat.mod_eq_of_lt (by omega)]
    have h3 : 2 ^ 256 - b.toNat + a.toNat + P = 2 ^ 256 + (a.toNat + (P - b.toNat)) := by omega
    rw [BitVec.toNat_add, hd, pWord_toNat, h3, Nat.add_mod_left, Nat.mod_eq_of_lt (by omega),
      Nat.mod_eq_of_lt (by omega)]
  · rename_i h
    rw [BitVec.toNat_sub_of_le (by rw [BitVec.le_def]; omega), Nat.mod_eq_sub_mod (by omega),
      Nat.mod_eq_of_lt (by omega)]
    omega

theorem bigEq_iff (a b : BigInt256) : bigEq a b = true ↔ a = b := by
  constructor
  · intro h
    have h0 : ∀ i : Fin 4, limb a i = limb b i := by
      simp only [bigEq, beq_iff_eq] at h
      change _ = 0#64 at h
      rw [BitVec.or_eq_zero_iff, BitVec.or_eq_zero_iff, BitVec.or_eq_zero_iff] at h
      simp only [BitVec.xor_eq_zero_iff] at h
      intro i
      fin_cases i
      exacts [h.1.1.1, h.1.1.2, h.1.2, h.2]
    apply BitVec.eq_of_getLsbD_eq
    intro i hi
    have h1 := congrArg (fun x : BitVec 64 => x.getLsbD (i % 64))
      (h0 ⟨i / 64, Nat.div_lt_of_lt_mul hi⟩)
    simp only [limb, BitVec.getLsbD_extractLsb', Nat.div_add_mod] at h1
    simpa [Nat.mod_lt] using h1
  · rintro rfl
    simp [bigEq]

/-- R154. -/
theorem feq_iff (a b : Elem) : feq a b = true ↔ a = b := bigEq_iff a b

/-- R153. -/
theorem fneg_toNat {a : Elem} (ha : a.toNat < P) : (fneg a).toNat = (P - a.toNat) % P := by
  unfold fneg subWithBorrow select
  by_cases h : bigEq a 0#256 = true
  · have h0 := (bigEq_iff a 0#256).mp h
    simp only [h, if_true]
    rw [h0]
    simp
  · have hne : a.toNat ≠ 0 := fun e => h ((bigEq_iff a 0#256).mpr (BitVec.eq_of_toNat_eq e))
    simp only [h, Bool.false_eq_true, if_false]
    rw [BitVec.toNat_sub_of_le (by rw [BitVec.le_def, pWord_toNat]; omega), pWord_toNat,
      Nat.mod_eq_of_lt (by omega)]

/-! ### Products -/

theorem mulWide_toNat (a b : BigInt256) : (mulWide a b).toNat = a.toNat * b.toNat := by
  have ha := a.isLt
  have hb := b.isLt
  have h : a.toNat * b.toNat < 2 ^ 512 := by
    calc a.toNat * b.toNat < 2 ^ 256 * 2 ^ 256 := Nat.mul_lt_mul'' ha hb
      _ = 2 ^ 512 := by rw [← pow_add]
  unfold mulWide
  rw [BitVec.toNat_mul, BitVec.toNat_setWidth, BitVec.toNat_setWidth,
    Nat.mod_eq_of_lt (lt_of_lt_of_le ha (Nat.pow_le_pow_right two_pos (by decide))),
    Nat.mod_eq_of_lt (lt_of_lt_of_le hb (Nat.pow_le_pow_right two_pos (by decide))),
    Nat.mod_eq_of_lt h]

theorem limb_sum (a : BigInt256) : a.toNat = (limb a 0).toNat + (limb a 1).toNat * 2 ^ 64
    + (limb a 2).toNat * 2 ^ 128 + (limb a 3).toNat * 2 ^ 192 := by
  have ha := a.isLt
  simp only [limb, BitVec.extractLsb'_toNat, Nat.shiftRight_eq_div_pow]
  norm_num
  omega

/-- R132: squaring by limbs is the product of the operand with itself. -/
theorem sqrWide_eq (a : BigInt256) : sqrWide a = mulWide a a := by
  apply BitVec.eq_of_toNat_eq
  rw [mulWide_toNat]
  have h : a.toNat * a.toNat < 2 ^ 512 := by
    calc a.toNat * a.toNat < 2 ^ 256 * 2 ^ 256 := Nat.mul_lt_mul'' a.isLt a.isLt
      _ = 2 ^ 512 := by rw [← pow_add]
  rw [← Nat.mod_eq_of_lt h]
  unfold sqrWide
  simp only [BitVec.toNat_ofNat]
  rw [limb_sum a]
  congr 1
  have e320 : 2 ^ 320 = 2 ^ 192 * 2 ^ 128 := pow_add 2 192 128
  have e384 : 2 ^ 384 = 2 ^ 192 * 2 ^ 192 := pow_add 2 192 192
  rw [e320, e384]
  ring

/-- 2^256 is 38 modulo p (R158). -/
theorem fold_mod (l h : Nat) : (l + 38 * h) % P = (l + 2 ^ 256 * h) % P := by
  have : l + 2 ^ 256 * h = l + 38 * h + P * (2 * h) := by rw [two_P_add]; ring
  rw [this, Nat.add_mul_mod_self_left]

/-- R158. -/
theorem reduce512_toNat (x : BigInt512) : (reduce512 x).toNat = x.toNat % P := by
  have hx := x.isLt
  have hlow : (low512 x).toNat = x.toNat % 2 ^ 256 := by simp [low512]
  have hhigh : (high512 x).toNat = x.toNat / 2 ^ 256 := by
    have : x.toNat / 2 ^ 256 < 2 ^ 256 := by omega
    simp only [high512, BitVec.extractLsb'_toNat, Nat.shiftRight_eq_div_pow]
    exact Nat.mod_eq_of_lt this
  unfold reduce512
  simp only [hlow, hhigh]
  generalize x.toNat = n at *
  change (reduce256 _).toNat = _
  rw [reduce256_toNat, BitVec.toNat_ofNat]
  have e1 : (n % 2 ^ 256 + 38 * (n / 2 ^ 256)) % P = n % P := by
    rw [fold_mod, Nat.mod_add_div]
  generalize ht : n % 2 ^ 256 + 38 * (n / 2 ^ 256) = t at *
  have e2 : (t % 2 ^ 256 + 38 * (t / 2 ^ 256)) % P = t % P := by
    rw [fold_mod, Nat.mod_add_div]
  generalize hu : t % 2 ^ 256 + 38 * (t / 2 ^ 256) = u at *
  have e3 : (u % 2 ^ 256 + 38 * (u / 2 ^ 256)) % P = u % P := by
    rw [fold_mod, Nat.mod_add_div]
  rw [Nat.mod_eq_of_lt (a := u % 2 ^ 256 + 38 * (u / 2 ^ 256)) (by omega), e3, e2, e1]

theorem reduce512_lt (x : BigInt512) : (reduce512 x).toNat < P := by
  rw [reduce512_toNat]
  exact Nat.mod_lt _ (by decide)

/-- R159. -/
theorem fmul_toNat (a b : Elem) : (fmul a b).toNat = a.toNat * b.toNat % P := by
  rw [fmul, reduce512_toNat, mulWide_toNat]

/-- R160. -/
theorem fsqr_toNat (a : Elem) : (fsqr a).toNat = a.toNat ^ 2 % P := by
  rw [fsqr, reduce512_toNat, sqrWide_eq, mulWide_toNat, sq]

/-- R161. -/
theorem pow5_toNat (a : Elem) : (pow5 a).toNat = a.toNat ^ 5 % P := by
  rw [pow5, fmul_toNat, fsqr_toNat, fsqr_toNat, ← Nat.pow_mod, Nat.mod_mul_mod]
  congr 1
  ring

/-! ### Byte constructors -/

/-- R155 on at most 32 bytes. -/
theorem fromBytesLe_ok {bs : List Byte} (h : bs.length ≤ 32) :
    ∃ a, fromBytesLe bs = .ok a ∧ a.toNat = leNat bs % P := by
  refine ⟨reduce256 (fromLeBytes32 bs), by simp [fromBytesLe, Nat.not_lt.mpr h], ?_⟩
  have h1 := leNat_lt bs
  have h2 : 256 ^ bs.length ≤ 256 ^ 32 := Nat.pow_le_pow_right (by norm_num) h
  rw [reduce256_toNat, fromLeBytes32, BitVec.toNat_ofNat, Nat.mod_eq_of_lt (a := leNat bs)]
  exact lt_of_lt_of_le h1 (by simpa using h2)

/-- R157 on 48 bytes. -/
theorem wideReduce_toNat {bs : List Byte} (h : bs.length ≤ 48) :
    (wideReduce bs).toNat = leNat bs % P := by
  have h1 := leNat_lt bs
  have h2 : 256 ^ bs.length ≤ 256 ^ 48 := Nat.pow_le_pow_right (by norm_num) h
  have h3 : leNat bs < 2 ^ 384 := lt_of_lt_of_le h1 (h2.trans (le_of_eq (by rw [show 256 = 2 ^ 8 by norm_num, ← pow_mul])))
  have h4 : 38 * (leNat bs / 2 ^ 256) < P := by unfold P; omega
  have h5 : (BitVec.ofNat 256 (38 * (leNat bs / 2 ^ 256))).toNat = 38 * (leNat bs / 2 ^ 256) := by
    rw [BitVec.toNat_ofNat, Nat.mod_eq_of_lt (by have := P_lt; omega)]
  unfold wideReduce
  rw [fadd_toNat (by rw [reduce256_toNat]; exact Nat.mod_lt _ (by decide)) (by rw [h5]; exact h4), h5,
    reduce256_toNat, BitVec.toNat_ofNat, Nat.mod_add_mod, fold_mod, Nat.mod_add_div]

/-! ### Powers -/

theorem sqn_toNat (z : Elem) (n : Nat) : (sqn z n).toNat % P = z.toNat ^ 2 ^ n % P := by
  induction n generalizing z with
  | zero => simp [sqn]
  | succ n ih => rw [sqn, ih, fsqr_toNat, ← Nat.pow_mod, ← pow_mul, pow_succ, mul_comm]

theorem mul_pow_mod {x y a i j : Nat} (hx : x % P = a ^ i % P) (hy : y % P = a ^ j % P) :
    x * y % P = a ^ (i + j) % P := by
  rw [pow_add, Nat.mul_mod, hx, hy, ← Nat.mul_mod]

theorem fmul_sqn_toNat {z y : Elem} {a i j : Nat} (n : Nat) (hz : z.toNat % P = a ^ i % P)
    (hy : y.toNat % P = a ^ j % P) :
    (fmul (sqn z n) y).toNat = a ^ (i * 2 ^ n + j) % P := by
  rw [fmul_toNat]
  refine mul_pow_mod ?_ hy
  rw [sqn_toNat, Nat.pow_mod, hz, ← Nat.pow_mod, ← pow_mul]

/-- R163: the chain computes the power p − 2. -/
theorem inversionChain_toNat (a : Elem) : (inversionChain a).toNat = a.toNat ^ (P - 2) % P := by
  have m : ∀ {x : Elem} {n : Nat}, x.toNat = n % P → x.toNat % P = n % P := fun h => by
    rw [h, Nat.mod_mod]
  have h1 : a.toNat % P = a.toNat ^ 1 % P := by rw [pow_one]
  have h2 : (fsqr a).toNat % P = a.toNat ^ 2 % P := m (fsqr_toNat a)
  have t2 := m (fmul_sqn_toNat 0 h2 h1)
  have t4 := m (fmul_sqn_toNat 2 t2 t2)
  have t5 := m (fmul_sqn_toNat 1 t4 h1)
  have t10 := m (fmul_sqn_toNat 5 t5 t5)
  have t20 := m (fmul_sqn_toNat 10 t10 t10)
  have t40 := m (fmul_sqn_toNat 20 t20 t20)
  have t50 := m (fmul_sqn_toNat 10 t40 t10)
  have t100 := m (fmul_sqn_toNat 50 t50 t50)
  have t200 := m (fmul_sqn_toNat 100 t100 t100)
  have t250 := m (fmul_sqn_toNat 50 t200 t50)
  have t11 := m (fmul_sqn_toNat 2 h2 t2)
  have r := fmul_sqn_toNat 5 t250 t11
  exact r.trans (congrArg (a.toNat ^ · % P) (by norm_num [P]))

/-- The ladder keeps the pair (base^k, base^(k+1)), k the number the bits consumed so far form. -/
theorem ladder_toNat {w : Nat} (e : BitVec w) (base : Elem) :
    ∀ (n : Nat) (hn : n ≤ w) (r : Elem × Elem) (k : Nat),
      r.1.toNat % P = base.toNat ^ k % P → r.2.toNat % P = base.toNat ^ (k + 1) % P →
      (ladder e n hn r).1.toNat % P = base.toNat ^ (k * 2 ^ n + e.toNat % 2 ^ n) % P := by
  intro n
  induction n with
  | zero => intro hn r k h1 _; simpa [ladder, Nat.mod_one] using h1
  | succ n ih =>
    intro hn r k h1 h2
    have h1' : (fsqr r.1).toNat % P = base.toNat ^ (2 * k) % P := by
      rw [fsqr_toNat, Nat.mod_mod, Nat.pow_mod, h1, ← Nat.pow_mod, ← pow_mul, mul_comm]
    have h2' : (fsqr r.2).toNat % P = base.toNat ^ (2 * k + 1 + 1) % P := by
      rw [fsqr_toNat, Nat.mod_mod, Nat.pow_mod, h2, ← Nat.pow_mod, ← pow_mul]
      congr 2
      ring
    have hm : (fmul r.1 r.2).toNat % P = base.toNat ^ (2 * k + 1) % P := by
      rw [fmul_toNat, Nat.mod_mod, mul_pow_mod h1 h2]
      congr 2
      ring
    have hbit : e.toNat % 2 ^ (n + 1) = e.toNat % 2 ^ n + 2 ^ n * (e[n]'hn).toNat := by
      rw [pow_succ, Nat.mod_mul, BitVec.getElem_eq_testBit_toNat, Nat.testBit_eq_decide_div_mod_eq]
      congr 1
      rcases Nat.mod_two_eq_zero_or_one (e.toNat / 2 ^ n) with h | h <;> simp [h]
    rw [ladder, hbit]
    cases hb : e[n]'hn with
    | false =>
      rw [ih _ (ladderStep r false) (2 * k) (by simpa [ladderStep, select] using h1')
        (by simpa [ladderStep, select] using hm)]
      simp only [Bool.toNat_false, mul_zero, add_zero]
      congr 2
      ring
    | true =>
      rw [ih _ (ladderStep r true) (2 * k + 1) (by simpa [ladderStep, select] using hm)
        (by simpa [ladderStep, select] using h2')]
      simp only [Bool.toNat_true, mul_one]
      congr 2
      ring

/-- After at least one ladder step the first of the pair is canonical. -/
theorem ladder_lt {w : Nat} (e : BitVec w) (n : Nat) (hn : n ≤ w) (r : Elem × Elem)
    (h : r.1.toNat < P) (h' : 0 < n ∨ r.2.toNat < P) : (ladder e n hn r).1.toNat < P := by
  induction n generalizing r with
  | zero => exact h
  | succ n ih =>
    refine ih _ _ ?_ (.inr ?_) <;> unfold ladderStep select <;> dsimp only <;> split <;>
      exact reduce512_lt _

theorem one_lt : (1#256 : Elem).toNat < P := by decide

/-- R167, for an exponent below 2^255. -/
theorem pow_toNat (base : Elem) (e : BigInt256) (he : e.toNat < 2 ^ 255) :
    (pow base e).toNat = base.toNat ^ e.toNat % P := by
  have h := ladder_toNat e base 255 (by decide) (1#256, base) 0 (by simp) (by simp)
  rw [zero_mul, zero_add, Nat.mod_eq_of_lt he] at h
  rw [← h, pow, Nat.mod_eq_of_lt (ladder_lt _ _ _ _ one_lt (.inl (by decide)))]

/-- R168. -/
theorem powU64_toNat (base : Elem) (e : BitVec 64) :
    (powU64 base e).toNat = base.toNat ^ e.toNat % P := by
  have h := ladder_toNat e base 64 (Nat.le_refl 64) (1#256, base) 0 (by simp) (by simp)
  rw [zero_mul, zero_add, Nat.mod_eq_of_lt e.isLt] at h
  rw [← h, powU64, Nat.mod_eq_of_lt (ladder_lt _ _ _ _ one_lt (.inl (by decide)))]

end Sys2Proof.Machine
end

