-- ==== Sys2Proof/Laws/State.lean ====
section
/-! SUPPORT. What each update of the state leaves in each field, one lemma per field per update. -/

namespace Sys2Proof.Machine

/-! ### `State.complete` -/

@[simp] theorem State.complete_x (s : State) : (s.complete).x = s.x := rfl
@[simp] theorem State.complete_svec (s : State) : (s.complete).svec = s.svec := rfl
@[simp] theorem State.complete_pd0 (s : State) : (s.complete).pd0 = s.pd0 := rfl
@[simp] theorem State.complete_pd1 (s : State) : (s.complete).pd1 = s.pd1 := rfl
@[simp] theorem State.complete_hslot (s : State) : (s.complete).hslot = s.hslot := rfl
@[simp] theorem State.complete_hrate (s : State) : (s.complete).hrate = s.hrate := rfl
@[simp] theorem State.complete_hdlen (s : State) : (s.complete).hdlen = s.hdlen := rfl
@[simp] theorem State.complete_hpos (s : State) : (s.complete).hpos = s.hpos := rfl
@[simp] theorem State.complete_hph (s : State) : (s.complete).hph = s.hph := rfl
@[simp] theorem State.complete_crdy (s : State) : (s.complete).crdy = s.crdy := rfl
@[simp] theorem State.complete_nonce (s : State) : (s.complete).nonce = s.nonce := rfl
@[simp] theorem State.complete_ctr (s : State) : (s.complete).ctr = s.ctr := rfl
@[simp] theorem State.complete_ks (s : State) : (s.complete).ks = s.ks := rfl
@[simp] theorem State.complete_kpos (s : State) : (s.complete).kpos = s.kpos := rfl
@[simp] theorem State.complete_dbuf (s : State) : (s.complete).dbuf = s.dbuf := rfl
@[simp] theorem State.complete_dout (s : State) : (s.complete).dout = s.dout := rfl
@[simp] theorem State.complete_exp (s : State) : (s.complete).exp = s.exp := rfl
@[simp] theorem State.complete_busy (s : State) : (s.complete).busy = false := rfl
@[simp] theorem State.complete_done (s : State) : (s.complete).done = true := rfl
@[simp] theorem State.complete_err (s : State) : (s.complete).err = s.err := rfl
@[simp] theorem State.complete_eq (s : State) : (s.complete).eq = s.eq := rfl
@[simp] theorem State.complete_errcode (s : State) : (s.complete).errcode = s.errcode := rfl
@[simp] theorem State.complete_pending (s : State) : (s.complete).pending = none := rfl
@[simp] theorem State.complete_cfg (s : State) : (s.complete).cfg = s.cfg := rfl
@[simp] theorem State.complete_script (s : State) : (s.complete).script = s.script := rfl
@[simp] theorem State.complete_rdata (s : State) : (s.complete).rdata = s.rdata := rfl

/-! ### `State.raise` -/

@[simp] theorem State.raise_x (s : State) (e : ErrKind) : (s.raise e).x = s.x := rfl
@[simp] theorem State.raise_svec (s : State) (e : ErrKind) : (s.raise e).svec = s.svec := rfl
@[simp] theorem State.raise_pd0 (s : State) (e : ErrKind) : (s.raise e).pd0 = s.pd0 := rfl
@[simp] theorem State.raise_pd1 (s : State) (e : ErrKind) : (s.raise e).pd1 = s.pd1 := rfl
@[simp] theorem State.raise_hslot (s : State) (e : ErrKind) : (s.raise e).hslot = s.hslot := rfl
@[simp] theorem State.raise_hrate (s : State) (e : ErrKind) : (s.raise e).hrate = s.hrate := rfl
@[simp] theorem State.raise_hdlen (s : State) (e : ErrKind) : (s.raise e).hdlen = s.hdlen := rfl
@[simp] theorem State.raise_hpos (s : State) (e : ErrKind) : (s.raise e).hpos = s.hpos := rfl
@[simp] theorem State.raise_hph (s : State) (e : ErrKind) : (s.raise e).hph = s.hph := rfl
@[simp] theorem State.raise_crdy (s : State) (e : ErrKind) : (s.raise e).crdy = s.crdy := rfl
@[simp] theorem State.raise_nonce (s : State) (e : ErrKind) : (s.raise e).nonce = s.nonce := rfl
@[simp] theorem State.raise_ctr (s : State) (e : ErrKind) : (s.raise e).ctr = s.ctr := rfl
@[simp] theorem State.raise_ks (s : State) (e : ErrKind) : (s.raise e).ks = s.ks := rfl
@[simp] theorem State.raise_kpos (s : State) (e : ErrKind) : (s.raise e).kpos = s.kpos := rfl
@[simp] theorem State.raise_dbuf (s : State) (e : ErrKind) : (s.raise e).dbuf = s.dbuf := rfl
@[simp] theorem State.raise_dout (s : State) (e : ErrKind) : (s.raise e).dout = s.dout := rfl
@[simp] theorem State.raise_exp (s : State) (e : ErrKind) : (s.raise e).exp = s.exp := rfl
@[simp] theorem State.raise_busy (s : State) (e : ErrKind) : (s.raise e).busy = false := rfl
@[simp] theorem State.raise_done (s : State) (e : ErrKind) : (s.raise e).done = true := rfl
@[simp] theorem State.raise_err (s : State) (e : ErrKind) : (s.raise e).err = true := rfl
@[simp] theorem State.raise_eq (s : State) (e : ErrKind) : (s.raise e).eq = s.eq := rfl
@[simp] theorem State.raise_errcode (s : State) (e : ErrKind) : (s.raise e).errcode = e.code := rfl
@[simp] theorem State.raise_pending (s : State) (e : ErrKind) : (s.raise e).pending = none := rfl
@[simp] theorem State.raise_cfg (s : State) (e : ErrKind) : (s.raise e).cfg = s.cfg := rfl
@[simp] theorem State.raise_script (s : State) (e : ErrKind) : (s.raise e).script = s.script := rfl
@[simp] theorem State.raise_rdata (s : State) (e : ErrKind) : (s.raise e).rdata = s.rdata := rfl

/-! ### `State.clearError` -/

@[simp] theorem State.clearError_x (s : State) : (s.clearError).x = s.x := rfl
@[simp] theorem State.clearError_svec (s : State) : (s.clearError).svec = s.svec := rfl
@[simp] theorem State.clearError_pd0 (s : State) : (s.clearError).pd0 = s.pd0 := rfl
@[simp] theorem State.clearError_pd1 (s : State) : (s.clearError).pd1 = s.pd1 := rfl
@[simp] theorem State.clearError_hslot (s : State) : (s.clearError).hslot = s.hslot := rfl
@[simp] theorem State.clearError_hrate (s : State) : (s.clearError).hrate = s.hrate := rfl
@[simp] theorem State.clearError_hdlen (s : State) : (s.clearError).hdlen = s.hdlen := rfl
@[simp] theorem State.clearError_hpos (s : State) : (s.clearError).hpos = s.hpos := rfl
@[simp] theorem State.clearError_hph (s : State) : (s.clearError).hph = s.hph := rfl
@[simp] theorem State.clearError_crdy (s : State) : (s.clearError).crdy = s.crdy := rfl
@[simp] theorem State.clearError_nonce (s : State) : (s.clearError).nonce = s.nonce := rfl
@[simp] theorem State.clearError_ctr (s : State) : (s.clearError).ctr = s.ctr := rfl
@[simp] theorem State.clearError_ks (s : State) : (s.clearError).ks = s.ks := rfl
@[simp] theorem State.clearError_kpos (s : State) : (s.clearError).kpos = s.kpos := rfl
@[simp] theorem State.clearError_dbuf (s : State) : (s.clearError).dbuf = s.dbuf := rfl
@[simp] theorem State.clearError_dout (s : State) : (s.clearError).dout = s.dout := rfl
@[simp] theorem State.clearError_exp (s : State) : (s.clearError).exp = s.exp := rfl
@[simp] theorem State.clearError_busy (s : State) : (s.clearError).busy = s.busy := rfl
@[simp] theorem State.clearError_done (s : State) : (s.clearError).done = s.done := rfl
@[simp] theorem State.clearError_err (s : State) : (s.clearError).err = false := rfl
@[simp] theorem State.clearError_eq (s : State) : (s.clearError).eq = s.eq := rfl
@[simp] theorem State.clearError_errcode (s : State) : (s.clearError).errcode = 0 := rfl
@[simp] theorem State.clearError_pending (s : State) : (s.clearError).pending = s.pending := rfl
@[simp] theorem State.clearError_cfg (s : State) : (s.clearError).cfg = s.cfg := rfl
@[simp] theorem State.clearError_script (s : State) : (s.clearError).script = s.script := rfl
@[simp] theorem State.clearError_rdata (s : State) : (s.clearError).rdata = s.rdata := rfl

/-! ### `State.resetSponge` -/

@[simp] theorem State.resetSponge_x (s : State) : (s.resetSponge).x = s.x := rfl
@[simp] theorem State.resetSponge_svec (s : State) : (s.resetSponge).svec = s.svec := rfl
@[simp] theorem State.resetSponge_pd0 (s : State) : (s.resetSponge).pd0 = s.pd0 := rfl
@[simp] theorem State.resetSponge_pd1 (s : State) : (s.resetSponge).pd1 = s.pd1 := rfl
@[simp] theorem State.resetSponge_hslot (s : State) : (s.resetSponge).hslot = .pd0 := rfl
@[simp] theorem State.resetSponge_hrate (s : State) : (s.resetSponge).hrate = 0 := rfl
@[simp] theorem State.resetSponge_hdlen (s : State) : (s.resetSponge).hdlen = 0 := rfl
@[simp] theorem State.resetSponge_hpos (s : State) : (s.resetSponge).hpos = 0 := rfl
@[simp] theorem State.resetSponge_hph (s : State) : (s.resetSponge).hph = .idle := rfl
@[simp] theorem State.resetSponge_crdy (s : State) : (s.resetSponge).crdy = s.crdy := rfl
@[simp] theorem State.resetSponge_nonce (s : State) : (s.resetSponge).nonce = s.nonce := rfl
@[simp] theorem State.resetSponge_ctr (s : State) : (s.resetSponge).ctr = s.ctr := rfl
@[simp] theorem State.resetSponge_ks (s : State) : (s.resetSponge).ks = s.ks := rfl
@[simp] theorem State.resetSponge_kpos (s : State) : (s.resetSponge).kpos = s.kpos := rfl
@[simp] theorem State.resetSponge_dbuf (s : State) : (s.resetSponge).dbuf = s.dbuf := rfl
@[simp] theorem State.resetSponge_dout (s : State) : (s.resetSponge).dout = s.dout := rfl
@[simp] theorem State.resetSponge_exp (s : State) : (s.resetSponge).exp = s.exp := rfl
@[simp] theorem State.resetSponge_busy (s : State) : (s.resetSponge).busy = s.busy := rfl
@[simp] theorem State.resetSponge_done (s : State) : (s.resetSponge).done = s.done := rfl
@[simp] theorem State.resetSponge_err (s : State) : (s.resetSponge).err = s.err := rfl
@[simp] theorem State.resetSponge_eq (s : State) : (s.resetSponge).eq = s.eq := rfl
@[simp] theorem State.resetSponge_errcode (s : State) : (s.resetSponge).errcode = s.errcode := rfl
@[simp] theorem State.resetSponge_pending (s : State) : (s.resetSponge).pending = s.pending := rfl
@[simp] theorem State.resetSponge_cfg (s : State) : (s.resetSponge).cfg = s.cfg := rfl
@[simp] theorem State.resetSponge_script (s : State) : (s.resetSponge).script = s.script := rfl
@[simp] theorem State.resetSponge_rdata (s : State) : (s.resetSponge).rdata = s.rdata := rfl

/-! ### `State.resetCipher` -/

@[simp] theorem State.resetCipher_x (s : State) : (s.resetCipher).x = s.x := rfl
@[simp] theorem State.resetCipher_svec (s : State) : (s.resetCipher).svec = s.svec := rfl
@[simp] theorem State.resetCipher_pd0 (s : State) : (s.resetCipher).pd0 = s.pd0 := rfl
@[simp] theorem State.resetCipher_pd1 (s : State) : (s.resetCipher).pd1 = s.pd1 := rfl
@[simp] theorem State.resetCipher_hslot (s : State) : (s.resetCipher).hslot = s.hslot := rfl
@[simp] theorem State.resetCipher_hrate (s : State) : (s.resetCipher).hrate = s.hrate := rfl
@[simp] theorem State.resetCipher_hdlen (s : State) : (s.resetCipher).hdlen = s.hdlen := rfl
@[simp] theorem State.resetCipher_hpos (s : State) : (s.resetCipher).hpos = s.hpos := rfl
@[simp] theorem State.resetCipher_hph (s : State) : (s.resetCipher).hph = s.hph := rfl
@[simp] theorem State.resetCipher_crdy (s : State) : (s.resetCipher).crdy = false := rfl
@[simp] theorem State.resetCipher_nonce (s : State) : (s.resetCipher).nonce = 0#256 := rfl
@[simp] theorem State.resetCipher_ctr (s : State) : (s.resetCipher).ctr = 0 := rfl
@[simp] theorem State.resetCipher_ks (s : State) :
    (s.resetCipher).ks = Vector.replicate 5 0#256 := rfl
@[simp] theorem State.resetCipher_kpos (s : State) : (s.resetCipher).kpos = 0 := rfl
@[simp] theorem State.resetCipher_dbuf (s : State) : (s.resetCipher).dbuf = s.dbuf := rfl
@[simp] theorem State.resetCipher_dout (s : State) : (s.resetCipher).dout = s.dout := rfl
@[simp] theorem State.resetCipher_exp (s : State) : (s.resetCipher).exp = s.exp := rfl
@[simp] theorem State.resetCipher_busy (s : State) : (s.resetCipher).busy = s.busy := rfl
@[simp] theorem State.resetCipher_done (s : State) : (s.resetCipher).done = s.done := rfl
@[simp] theorem State.resetCipher_err (s : State) : (s.resetCipher).err = s.err := rfl
@[simp] theorem State.resetCipher_eq (s : State) : (s.resetCipher).eq = s.eq := rfl
@[simp] theorem State.resetCipher_errcode (s : State) : (s.resetCipher).errcode = s.errcode := rfl
@[simp] theorem State.resetCipher_pending (s : State) : (s.resetCipher).pending = s.pending := rfl
@[simp] theorem State.resetCipher_cfg (s : State) : (s.resetCipher).cfg = s.cfg := rfl
@[simp] theorem State.resetCipher_script (s : State) : (s.resetCipher).script = s.script := rfl
@[simp] theorem State.resetCipher_rdata (s : State) : (s.resetCipher).rdata = s.rdata := rfl

/-! ### `State.clearLanes` -/

@[simp] theorem State.clearLanes_x (s : State) : (s.clearLanes).x = s.x := rfl
@[simp] theorem State.clearLanes_svec (s : State) :
    (s.clearLanes).svec = Vector.replicate 12 0#256 := rfl
@[simp] theorem State.clearLanes_pd0 (s : State) : (s.clearLanes).pd0 = s.pd0 := rfl
@[simp] theorem State.clearLanes_pd1 (s : State) : (s.clearLanes).pd1 = s.pd1 := rfl
@[simp] theorem State.clearLanes_hslot (s : State) : (s.clearLanes).hslot = s.hslot := rfl
@[simp] theorem State.clearLanes_hrate (s : State) : (s.clearLanes).hrate = s.hrate := rfl
@[simp] theorem State.clearLanes_hdlen (s : State) : (s.clearLanes).hdlen = s.hdlen := rfl
@[simp] theorem State.clearLanes_hpos (s : State) : (s.clearLanes).hpos = s.hpos := rfl
@[simp] theorem State.clearLanes_hph (s : State) : (s.clearLanes).hph = s.hph := rfl
@[simp] theorem State.clearLanes_crdy (s : State) : (s.clearLanes).crdy = s.crdy := rfl
@[simp] theorem State.clearLanes_nonce (s : State) : (s.clearLanes).nonce = s.nonce := rfl
@[simp] theorem State.clearLanes_ctr (s : State) : (s.clearLanes).ctr = s.ctr := rfl
@[simp] theorem State.clearLanes_ks (s : State) : (s.clearLanes).ks = s.ks := rfl
@[simp] theorem State.clearLanes_kpos (s : State) : (s.clearLanes).kpos = s.kpos := rfl
@[simp] theorem State.clearLanes_dbuf (s : State) : (s.clearLanes).dbuf = s.dbuf := rfl
@[simp] theorem State.clearLanes_dout (s : State) : (s.clearLanes).dout = s.dout := rfl
@[simp] theorem State.clearLanes_exp (s : State) : (s.clearLanes).exp = s.exp := rfl
@[simp] theorem State.clearLanes_busy (s : State) : (s.clearLanes).busy = s.busy := rfl
@[simp] theorem State.clearLanes_done (s : State) : (s.clearLanes).done = s.done := rfl
@[simp] theorem State.clearLanes_err (s : State) : (s.clearLanes).err = s.err := rfl
@[simp] theorem State.clearLanes_eq (s : State) : (s.clearLanes).eq = s.eq := rfl
@[simp] theorem State.clearLanes_errcode (s : State) : (s.clearLanes).errcode = s.errcode := rfl
@[simp] theorem State.clearLanes_pending (s : State) : (s.clearLanes).pending = s.pending := rfl
@[simp] theorem State.clearLanes_cfg (s : State) : (s.clearLanes).cfg = s.cfg := rfl
@[simp] theorem State.clearLanes_script (s : State) : (s.clearLanes).script = s.script := rfl
@[simp] theorem State.clearLanes_rdata (s : State) : (s.clearLanes).rdata = s.rdata := rfl

/-! ### `State.setReg` -/

@[simp] theorem State.setReg_x (s : State) (rd : Reg) (v : Elem) :
    (s.setReg rd v).x = s.x.set rd.toNat v rd.isLt := rfl
@[simp] theorem State.setReg_svec (s : State) (rd : Reg) (v : Elem) :
    (s.setReg rd v).svec = s.svec := rfl
@[simp] theorem State.setReg_pd0 (s : State) (rd : Reg) (v : Elem) :
    (s.setReg rd v).pd0 = s.pd0 := rfl
@[simp] theorem State.setReg_pd1 (s : State) (rd : Reg) (v : Elem) :
    (s.setReg rd v).pd1 = s.pd1 := rfl
@[simp] theorem State.setReg_hslot (s : State) (rd : Reg) (v : Elem) :
    (s.setReg rd v).hslot = s.hslot := rfl
@[simp] theorem State.setReg_hrate (s : State) (rd : Reg) (v : Elem) :
    (s.setReg rd v).hrate = s.hrate := rfl
@[simp] theorem State.setReg_hdlen (s : State) (rd : Reg) (v : Elem) :
    (s.setReg rd v).hdlen = s.hdlen := rfl
@[simp] theorem State.setReg_hpos (s : State) (rd : Reg) (v : Elem) :
    (s.setReg rd v).hpos = s.hpos := rfl
@[simp] theorem State.setReg_hph (s : State) (rd : Reg) (v : Elem) :
    (s.setReg rd v).hph = s.hph := rfl
@[simp] theorem State.setReg_crdy (s : State) (rd : Reg) (v : Elem) :
    (s.setReg rd v).crdy = s.crdy := rfl
@[simp] theorem State.setReg_nonce (s : State) (rd : Reg) (v : Elem) :
    (s.setReg rd v).nonce = s.nonce := rfl
@[simp] theorem State.setReg_ctr (s : State) (rd : Reg) (v : Elem) :
    (s.setReg rd v).ctr = s.ctr := rfl
@[simp] theorem State.setReg_ks (s : State) (rd : Reg) (v : Elem) : (s.setReg rd v).ks = s.ks := rfl
@[simp] theorem State.setReg_kpos (s : State) (rd : Reg) (v : Elem) :
    (s.setReg rd v).kpos = s.kpos := rfl
@[simp] theorem State.setReg_dbuf (s : State) (rd : Reg) (v : Elem) :
    (s.setReg rd v).dbuf = s.dbuf := rfl
@[simp] theorem State.setReg_dout (s : State) (rd : Reg) (v : Elem) :
    (s.setReg rd v).dout = s.dout := rfl
@[simp] theorem State.setReg_exp (s : State) (rd : Reg) (v : Elem) :
    (s.setReg rd v).exp = s.exp := rfl
@[simp] theorem State.setReg_busy (s : State) (rd : Reg) (v : Elem) :
    (s.setReg rd v).busy = s.busy := rfl
@[simp] theorem State.setReg_done (s : State) (rd : Reg) (v : Elem) :
    (s.setReg rd v).done = s.done := rfl
@[simp] theorem State.setReg_err (s : State) (rd : Reg) (v : Elem) :
    (s.setReg rd v).err = s.err := rfl
@[simp] theorem State.setReg_eq (s : State) (rd : Reg) (v : Elem) : (s.setReg rd v).eq = s.eq := rfl
@[simp] theorem State.setReg_errcode (s : State) (rd : Reg) (v : Elem) :
    (s.setReg rd v).errcode = s.errcode := rfl
@[simp] theorem State.setReg_pending (s : State) (rd : Reg) (v : Elem) :
    (s.setReg rd v).pending = s.pending := rfl
@[simp] theorem State.setReg_cfg (s : State) (rd : Reg) (v : Elem) :
    (s.setReg rd v).cfg = s.cfg := rfl
@[simp] theorem State.setReg_script (s : State) (rd : Reg) (v : Elem) :
    (s.setReg rd v).script = s.script := rfl
@[simp] theorem State.setReg_rdata (s : State) (rd : Reg) (v : Elem) :
    (s.setReg rd v).rdata = s.rdata := rfl

/-! ### `State.setLane` -/

@[simp] theorem State.setLane_x (s : State) (i : Nat) (v : Elem) : (s.setLane i v).x = s.x := rfl
@[simp] theorem State.setLane_svec (s : State) (i : Nat) (v : Elem) :
    (s.setLane i v).svec = laneWritten s.svec i v := rfl
@[simp] theorem State.setLane_pd0 (s : State) (i : Nat) (v : Elem) :
    (s.setLane i v).pd0 = s.pd0 := rfl
@[simp] theorem State.setLane_pd1 (s : State) (i : Nat) (v : Elem) :
    (s.setLane i v).pd1 = s.pd1 := rfl
@[simp] theorem State.setLane_hslot (s : State) (i : Nat) (v : Elem) :
    (s.setLane i v).hslot = s.hslot := rfl
@[simp] theorem State.setLane_hrate (s : State) (i : Nat) (v : Elem) :
    (s.setLane i v).hrate = s.hrate := rfl
@[simp] theorem State.setLane_hdlen (s : State) (i : Nat) (v : Elem) :
    (s.setLane i v).hdlen = s.hdlen := rfl
@[simp] theorem State.setLane_hpos (s : State) (i : Nat) (v : Elem) :
    (s.setLane i v).hpos = s.hpos := rfl
@[simp] theorem State.setLane_hph (s : State) (i : Nat) (v : Elem) :
    (s.setLane i v).hph = s.hph := rfl
@[simp] theorem State.setLane_crdy (s : State) (i : Nat) (v : Elem) :
    (s.setLane i v).crdy = s.crdy := rfl
@[simp] theorem State.setLane_nonce (s : State) (i : Nat) (v : Elem) :
    (s.setLane i v).nonce = s.nonce := rfl
@[simp] theorem State.setLane_ctr (s : State) (i : Nat) (v : Elem) :
    (s.setLane i v).ctr = s.ctr := rfl
@[simp] theorem State.setLane_ks (s : State) (i : Nat) (v : Elem) : (s.setLane i v).ks = s.ks := rfl
@[simp] theorem State.setLane_kpos (s : State) (i : Nat) (v : Elem) :
    (s.setLane i v).kpos = s.kpos := rfl
@[simp] theorem State.setLane_dbuf (s : State) (i : Nat) (v : Elem) :
    (s.setLane i v).dbuf = s.dbuf := rfl
@[simp] theorem State.setLane_dout (s : State) (i : Nat) (v : Elem) :
    (s.setLane i v).dout = s.dout := rfl
@[simp] theorem State.setLane_exp (s : State) (i : Nat) (v : Elem) :
    (s.setLane i v).exp = s.exp := rfl
@[simp] theorem State.setLane_busy (s : State) (i : Nat) (v : Elem) :
    (s.setLane i v).busy = s.busy := rfl
@[simp] theorem State.setLane_done (s : State) (i : Nat) (v : Elem) :
    (s.setLane i v).done = s.done := rfl
@[simp] theorem State.setLane_err (s : State) (i : Nat) (v : Elem) :
    (s.setLane i v).err = s.err := rfl
@[simp] theorem State.setLane_eq (s : State) (i : Nat) (v : Elem) : (s.setLane i v).eq = s.eq := rfl
@[simp] theorem State.setLane_errcode (s : State) (i : Nat) (v : Elem) :
    (s.setLane i v).errcode = s.errcode := rfl
@[simp] theorem State.setLane_pending (s : State) (i : Nat) (v : Elem) :
    (s.setLane i v).pending = s.pending := rfl
@[simp] theorem State.setLane_cfg (s : State) (i : Nat) (v : Elem) :
    (s.setLane i v).cfg = s.cfg := rfl
@[simp] theorem State.setLane_script (s : State) (i : Nat) (v : Elem) :
    (s.setLane i v).script = s.script := rfl
@[simp] theorem State.setLane_rdata (s : State) (i : Nat) (v : Elem) :
    (s.setLane i v).rdata = s.rdata := rfl

/-! ### `State.setLanes` -/

@[simp] theorem State.setLanes_x (s : State) (v : Column) : (s.setLanes v).x = s.x := rfl
@[simp] theorem State.setLanes_svec (s : State) (v : Column) :
    (s.setLanes v).svec = lanesWritten s.svec v := rfl
@[simp] theorem State.setLanes_pd0 (s : State) (v : Column) : (s.setLanes v).pd0 = s.pd0 := rfl
@[simp] theorem State.setLanes_pd1 (s : State) (v : Column) : (s.setLanes v).pd1 = s.pd1 := rfl
@[simp] theorem State.setLanes_hslot (s : State) (v : Column) :
    (s.setLanes v).hslot = s.hslot := rfl
@[simp] theorem State.setLanes_hrate (s : State) (v : Column) :
    (s.setLanes v).hrate = s.hrate := rfl
@[simp] theorem State.setLanes_hdlen (s : State) (v : Column) :
    (s.setLanes v).hdlen = s.hdlen := rfl
@[simp] theorem State.setLanes_hpos (s : State) (v : Column) : (s.setLanes v).hpos = s.hpos := rfl
@[simp] theorem State.setLanes_hph (s : State) (v : Column) : (s.setLanes v).hph = s.hph := rfl
@[simp] theorem State.setLanes_crdy (s : State) (v : Column) : (s.setLanes v).crdy = s.crdy := rfl
@[simp] theorem State.setLanes_nonce (s : State) (v : Column) :
    (s.setLanes v).nonce = s.nonce := rfl
@[simp] theorem State.setLanes_ctr (s : State) (v : Column) : (s.setLanes v).ctr = s.ctr := rfl
@[simp] theorem State.setLanes_ks (s : State) (v : Column) : (s.setLanes v).ks = s.ks := rfl
@[simp] theorem State.setLanes_kpos (s : State) (v : Column) : (s.setLanes v).kpos = s.kpos := rfl
@[simp] theorem State.setLanes_dbuf (s : State) (v : Column) : (s.setLanes v).dbuf = s.dbuf := rfl
@[simp] theorem State.setLanes_dout (s : State) (v : Column) : (s.setLanes v).dout = s.dout := rfl
@[simp] theorem State.setLanes_exp (s : State) (v : Column) : (s.setLanes v).exp = s.exp := rfl
@[simp] theorem State.setLanes_busy (s : State) (v : Column) : (s.setLanes v).busy = s.busy := rfl
@[simp] theorem State.setLanes_done (s : State) (v : Column) : (s.setLanes v).done = s.done := rfl
@[simp] theorem State.setLanes_err (s : State) (v : Column) : (s.setLanes v).err = s.err := rfl
@[simp] theorem State.setLanes_eq (s : State) (v : Column) : (s.setLanes v).eq = s.eq := rfl
@[simp] theorem State.setLanes_errcode (s : State) (v : Column) :
    (s.setLanes v).errcode = s.errcode := rfl
@[simp] theorem State.setLanes_pending (s : State) (v : Column) :
    (s.setLanes v).pending = s.pending := rfl
@[simp] theorem State.setLanes_cfg (s : State) (v : Column) : (s.setLanes v).cfg = s.cfg := rfl
@[simp] theorem State.setLanes_script (s : State) (v : Column) :
    (s.setLanes v).script = s.script := rfl
@[simp] theorem State.setLanes_rdata (s : State) (v : Column) :
    (s.setLanes v).rdata = s.rdata := rfl

/-! ### `State.setDout` -/

@[simp] theorem State.setDout_x (s : State) (a : Elem) : (s.setDout a).x = s.x := rfl
@[simp] theorem State.setDout_svec (s : State) (a : Elem) : (s.setDout a).svec = s.svec := rfl
@[simp] theorem State.setDout_pd0 (s : State) (a : Elem) : (s.setDout a).pd0 = s.pd0 := rfl
@[simp] theorem State.setDout_pd1 (s : State) (a : Elem) : (s.setDout a).pd1 = s.pd1 := rfl
@[simp] theorem State.setDout_hslot (s : State) (a : Elem) : (s.setDout a).hslot = s.hslot := rfl
@[simp] theorem State.setDout_hrate (s : State) (a : Elem) : (s.setDout a).hrate = s.hrate := rfl
@[simp] theorem State.setDout_hdlen (s : State) (a : Elem) : (s.setDout a).hdlen = s.hdlen := rfl
@[simp] theorem State.setDout_hpos (s : State) (a : Elem) : (s.setDout a).hpos = s.hpos := rfl
@[simp] theorem State.setDout_hph (s : State) (a : Elem) : (s.setDout a).hph = s.hph := rfl
@[simp] theorem State.setDout_crdy (s : State) (a : Elem) : (s.setDout a).crdy = s.crdy := rfl
@[simp] theorem State.setDout_nonce (s : State) (a : Elem) : (s.setDout a).nonce = s.nonce := rfl
@[simp] theorem State.setDout_ctr (s : State) (a : Elem) : (s.setDout a).ctr = s.ctr := rfl
@[simp] theorem State.setDout_ks (s : State) (a : Elem) : (s.setDout a).ks = s.ks := rfl
@[simp] theorem State.setDout_kpos (s : State) (a : Elem) : (s.setDout a).kpos = s.kpos := rfl
@[simp] theorem State.setDout_dbuf (s : State) (a : Elem) : (s.setDout a).dbuf = s.dbuf := rfl
@[simp] theorem State.setDout_dout (s : State) (a : Elem) : (s.setDout a).dout = doutBytes a := rfl
@[simp] theorem State.setDout_exp (s : State) (a : Elem) : (s.setDout a).exp = s.exp := rfl
@[simp] theorem State.setDout_busy (s : State) (a : Elem) : (s.setDout a).busy = s.busy := rfl
@[simp] theorem State.setDout_done (s : State) (a : Elem) : (s.setDout a).done = s.done := rfl
@[simp] theorem State.setDout_err (s : State) (a : Elem) : (s.setDout a).err = s.err := rfl
@[simp] theorem State.setDout_eq (s : State) (a : Elem) : (s.setDout a).eq = s.eq := rfl
@[simp] theorem State.setDout_errcode (s : State) (a : Elem) :
    (s.setDout a).errcode = s.errcode := rfl
@[simp] theorem State.setDout_pending (s : State) (a : Elem) :
    (s.setDout a).pending = s.pending := rfl
@[simp] theorem State.setDout_cfg (s : State) (a : Elem) : (s.setDout a).cfg = s.cfg := rfl
@[simp] theorem State.setDout_script (s : State) (a : Elem) : (s.setDout a).script = s.script := rfl
@[simp] theorem State.setDout_rdata (s : State) (a : Elem) : (s.setDout a).rdata = s.rdata := rfl

/-! ### `State.setEq` -/

@[simp] theorem State.setEq_x (s : State) (b : Bool) : (s.setEq b).x = s.x := rfl
@[simp] theorem State.setEq_svec (s : State) (b : Bool) : (s.setEq b).svec = s.svec := rfl
@[simp] theorem State.setEq_pd0 (s : State) (b : Bool) : (s.setEq b).pd0 = s.pd0 := rfl
@[simp] theorem State.setEq_pd1 (s : State) (b : Bool) : (s.setEq b).pd1 = s.pd1 := rfl
@[simp] theorem State.setEq_hslot (s : State) (b : Bool) : (s.setEq b).hslot = s.hslot := rfl
@[simp] theorem State.setEq_hrate (s : State) (b : Bool) : (s.setEq b).hrate = s.hrate := rfl
@[simp] theorem State.setEq_hdlen (s : State) (b : Bool) : (s.setEq b).hdlen = s.hdlen := rfl
@[simp] theorem State.setEq_hpos (s : State) (b : Bool) : (s.setEq b).hpos = s.hpos := rfl
@[simp] theorem State.setEq_hph (s : State) (b : Bool) : (s.setEq b).hph = s.hph := rfl
@[simp] theorem State.setEq_crdy (s : State) (b : Bool) : (s.setEq b).crdy = s.crdy := rfl
@[simp] theorem State.setEq_nonce (s : State) (b : Bool) : (s.setEq b).nonce = s.nonce := rfl
@[simp] theorem State.setEq_ctr (s : State) (b : Bool) : (s.setEq b).ctr = s.ctr := rfl
@[simp] theorem State.setEq_ks (s : State) (b : Bool) : (s.setEq b).ks = s.ks := rfl
@[simp] theorem State.setEq_kpos (s : State) (b : Bool) : (s.setEq b).kpos = s.kpos := rfl
@[simp] theorem State.setEq_dbuf (s : State) (b : Bool) : (s.setEq b).dbuf = s.dbuf := rfl
@[simp] theorem State.setEq_dout (s : State) (b : Bool) : (s.setEq b).dout = s.dout := rfl
@[simp] theorem State.setEq_exp (s : State) (b : Bool) : (s.setEq b).exp = s.exp := rfl
@[simp] theorem State.setEq_busy (s : State) (b : Bool) : (s.setEq b).busy = s.busy := rfl
@[simp] theorem State.setEq_done (s : State) (b : Bool) : (s.setEq b).done = s.done := rfl
@[simp] theorem State.setEq_err (s : State) (b : Bool) : (s.setEq b).err = s.err := rfl
@[simp] theorem State.setEq_eq (s : State) (b : Bool) : (s.setEq b).eq = b := rfl
@[simp] theorem State.setEq_errcode (s : State) (b : Bool) : (s.setEq b).errcode = s.errcode := rfl
@[simp] theorem State.setEq_pending (s : State) (b : Bool) : (s.setEq b).pending = s.pending := rfl
@[simp] theorem State.setEq_cfg (s : State) (b : Bool) : (s.setEq b).cfg = s.cfg := rfl
@[simp] theorem State.setEq_script (s : State) (b : Bool) : (s.setEq b).script = s.script := rfl
@[simp] theorem State.setEq_rdata (s : State) (b : Bool) : (s.setEq b).rdata = s.rdata := rfl

/-! ### `State.writeDbuf` -/

@[simp] theorem State.writeDbuf_x (s : State) (off : Nat) (v : Word) :
    (s.writeDbuf off v).x = s.x := rfl
@[simp] theorem State.writeDbuf_svec (s : State) (off : Nat) (v : Word) :
    (s.writeDbuf off v).svec = s.svec := rfl
@[simp] theorem State.writeDbuf_pd0 (s : State) (off : Nat) (v : Word) :
    (s.writeDbuf off v).pd0 = s.pd0 := rfl
@[simp] theorem State.writeDbuf_pd1 (s : State) (off : Nat) (v : Word) :
    (s.writeDbuf off v).pd1 = s.pd1 := rfl
@[simp] theorem State.writeDbuf_hslot (s : State) (off : Nat) (v : Word) :
    (s.writeDbuf off v).hslot = s.hslot := rfl
@[simp] theorem State.writeDbuf_hrate (s : State) (off : Nat) (v : Word) :
    (s.writeDbuf off v).hrate = s.hrate := rfl
@[simp] theorem State.writeDbuf_hdlen (s : State) (off : Nat) (v : Word) :
    (s.writeDbuf off v).hdlen = s.hdlen := rfl
@[simp] theorem State.writeDbuf_hpos (s : State) (off : Nat) (v : Word) :
    (s.writeDbuf off v).hpos = s.hpos := rfl
@[simp] theorem State.writeDbuf_hph (s : State) (off : Nat) (v : Word) :
    (s.writeDbuf off v).hph = s.hph := rfl
@[simp] theorem State.writeDbuf_crdy (s : State) (off : Nat) (v : Word) :
    (s.writeDbuf off v).crdy = s.crdy := rfl
@[simp] theorem State.writeDbuf_nonce (s : State) (off : Nat) (v : Word) :
    (s.writeDbuf off v).nonce = s.nonce := rfl
@[simp] theorem State.writeDbuf_ctr (s : State) (off : Nat) (v : Word) :
    (s.writeDbuf off v).ctr = s.ctr := rfl
@[simp] theorem State.writeDbuf_ks (s : State) (off : Nat) (v : Word) :
    (s.writeDbuf off v).ks = s.ks := rfl
@[simp] theorem State.writeDbuf_kpos (s : State) (off : Nat) (v : Word) :
    (s.writeDbuf off v).kpos = s.kpos := rfl
@[simp] theorem State.writeDbuf_dbuf (s : State) (off : Nat) (v : Word) :
    (s.writeDbuf off v).dbuf = dbufWritten s.dbuf off v := rfl
@[simp] theorem State.writeDbuf_dout (s : State) (off : Nat) (v : Word) :
    (s.writeDbuf off v).dout = s.dout := rfl
@[simp] theorem State.writeDbuf_exp (s : State) (off : Nat) (v : Word) :
    (s.writeDbuf off v).exp = s.exp := rfl
@[simp] theorem State.writeDbuf_busy (s : State) (off : Nat) (v : Word) :
    (s.writeDbuf off v).busy = s.busy := rfl
@[simp] theorem State.writeDbuf_done (s : State) (off : Nat) (v : Word) :
    (s.writeDbuf off v).done = s.done := rfl
@[simp] theorem State.writeDbuf_err (s : State) (off : Nat) (v : Word) :
    (s.writeDbuf off v).err = s.err := rfl
@[simp] theorem State.writeDbuf_eq (s : State) (off : Nat) (v : Word) :
    (s.writeDbuf off v).eq = s.eq := rfl
@[simp] theorem State.writeDbuf_errcode (s : State) (off : Nat) (v : Word) :
    (s.writeDbuf off v).errcode = s.errcode := rfl
@[simp] theorem State.writeDbuf_pending (s : State) (off : Nat) (v : Word) :
    (s.writeDbuf off v).pending = s.pending := rfl
@[simp] theorem State.writeDbuf_cfg (s : State) (off : Nat) (v : Word) :
    (s.writeDbuf off v).cfg = s.cfg := rfl
@[simp] theorem State.writeDbuf_script (s : State) (off : Nat) (v : Word) :
    (s.writeDbuf off v).script = s.script := rfl
@[simp] theorem State.writeDbuf_rdata (s : State) (off : Nat) (v : Word) :
    (s.writeDbuf off v).rdata = s.rdata := rfl

/-! ### `State.setSlot` -/

@[simp] theorem State.setSlot_x (s : State) (k : Slot) (d : Descriptor) : (s.setSlot k d).x = s.x := by cases k <;> rfl
@[simp] theorem State.setSlot_svec (s : State) (k : Slot) (d : Descriptor) : (s.setSlot k d).svec = s.svec := by cases k <;> rfl
@[simp] theorem State.setSlot_pd0 (s : State) (k : Slot) (d : Descriptor) :
    (s.setSlot k d).pd0 = if k = .pd0 then d else s.pd0 := by cases k <;> rfl
@[simp] theorem State.setSlot_pd1 (s : State) (k : Slot) (d : Descriptor) :
    (s.setSlot k d).pd1 = if k = .pd1 then d else s.pd1 := by cases k <;> rfl
@[simp] theorem State.setSlot_hslot (s : State) (k : Slot) (d : Descriptor) : (s.setSlot k d).hslot = s.hslot := by cases k <;> rfl
@[simp] theorem State.setSlot_hrate (s : State) (k : Slot) (d : Descriptor) : (s.setSlot k d).hrate = s.hrate := by cases k <;> rfl
@[simp] theorem State.setSlot_hdlen (s : State) (k : Slot) (d : Descriptor) : (s.setSlot k d).hdlen = s.hdlen := by cases k <;> rfl
@[simp] theorem State.setSlot_hpos (s : State) (k : Slot) (d : Descriptor) : (s.setSlot k d).hpos = s.hpos := by cases k <;> rfl
@[simp] theorem State.setSlot_hph (s : State) (k : Slot) (d : Descriptor) : (s.setSlot k d).hph = s.hph := by cases k <;> rfl
@[simp] theorem State.setSlot_crdy (s : State) (k : Slot) (d : Descriptor) : (s.setSlot k d).crdy = s.crdy := by cases k <;> rfl
@[simp] theorem State.setSlot_nonce (s : State) (k : Slot) (d : Descriptor) : (s.setSlot k d).nonce = s.nonce := by cases k <;> rfl
@[simp] theorem State.setSlot_ctr (s : State) (k : Slot) (d : Descriptor) : (s.setSlot k d).ctr = s.ctr := by cases k <;> rfl
@[simp] theorem State.setSlot_ks (s : State) (k : Slot) (d : Descriptor) : (s.setSlot k d).ks = s.ks := by cases k <;> rfl
@[simp] theorem State.setSlot_kpos (s : State) (k : Slot) (d : Descriptor) : (s.setSlot k d).kpos = s.kpos := by cases k <;> rfl
@[simp] theorem State.setSlot_dbuf (s : State) (k : Slot) (d : Descriptor) : (s.setSlot k d).dbuf = s.dbuf := by cases k <;> rfl
@[simp] theorem State.setSlot_dout (s : State) (k : Slot) (d : Descriptor) : (s.setSlot k d).dout = s.dout := by cases k <;> rfl
@[simp] theorem State.setSlot_exp (s : State) (k : Slot) (d : Descriptor) : (s.setSlot k d).exp = s.exp := by cases k <;> rfl
@[simp] theorem State.setSlot_busy (s : State) (k : Slot) (d : Descriptor) : (s.setSlot k d).busy = s.busy := by cases k <;> rfl
@[simp] theorem State.setSlot_done (s : State) (k : Slot) (d : Descriptor) : (s.setSlot k d).done = s.done := by cases k <;> rfl
@[simp] theorem State.setSlot_err (s : State) (k : Slot) (d : Descriptor) : (s.setSlot k d).err = s.err := by cases k <;> rfl
@[simp] theorem State.setSlot_eq (s : State) (k : Slot) (d : Descriptor) : (s.setSlot k d).eq = s.eq := by cases k <;> rfl
@[simp] theorem State.setSlot_errcode (s : State) (k : Slot) (d : Descriptor) : (s.setSlot k d).errcode = s.errcode := by cases k <;> rfl
@[simp] theorem State.setSlot_pending (s : State) (k : Slot) (d : Descriptor) : (s.setSlot k d).pending = s.pending := by cases k <;> rfl
@[simp] theorem State.setSlot_cfg (s : State) (k : Slot) (d : Descriptor) : (s.setSlot k d).cfg = s.cfg := by cases k <;> rfl
@[simp] theorem State.setSlot_script (s : State) (k : Slot) (d : Descriptor) : (s.setSlot k d).script = s.script := by cases k <;> rfl
@[simp] theorem State.setSlot_rdata (s : State) (k : Slot) (d : Descriptor) : (s.setSlot k d).rdata = s.rdata := by cases k <;> rfl

/-! ### Reading what an update wrote -/

@[simp] theorem State.reg_setReg_same (s : State) (rd : Reg) (v : Elem) :
    (s.setReg rd v).reg rd = v := by
  change (s.x.set rd.toNat v rd.isLt)[rd.toNat]'rd.isLt = v
  simp

theorem State.reg_setReg_other (s : State) (rd r : Reg) (v : Elem) (h : r ≠ rd) :
    (s.setReg rd v).reg r = s.reg r := by
  have h' : rd.toNat ≠ r.toNat := fun e => h (BitVec.eq_of_toNat_eq e.symm)
  change (s.x.set rd.toNat v rd.isLt)[r.toNat]'r.isLt = s.x[r.toNat]'r.isLt
  simp [h']

theorem laneWritten_get (u : Vector Elem 12) (i : Nat) (v : Elem) (j : Fin 12) :
    (laneWritten u i v).get j = if j.val = i then v else u.get j := by
  simp [laneWritten, Vector.get, Vector.ofFn]

theorem lanesWritten_get (u : Vector Elem 12) (v : Column) (j : Fin 12) :
    (lanesWritten u v).get j = v.getD j.val (u.get j) := by
  simp [lanesWritten, Vector.get, Vector.ofFn]

theorem doutBytes_get (a : Elem) (i : Fin 32) :
    (doutBytes a).get i = (toBytesLe a).getD i.val 0#8 := by
  simp [doutBytes, Vector.get, Vector.ofFn]

theorem dbufWritten_get (u : Vector Byte 48) (off : Nat) (v : Word) (i : Fin 48) :
    (dbufWritten u off v).get i =
      if off ≤ i.val ∧ i.val < off + 4 then wordByte v (i.val - off) else u.get i := by
  simp [dbufWritten, Vector.get, Vector.ofFn]

@[simp] theorem State.slot_setSlot_same (s : State) (k : Slot) (d : Descriptor) :
    (s.setSlot k d).slot k = d := by cases k <;> rfl

theorem State.slot_setSlot_other (s : State) (k k' : Slot) (d : Descriptor) (h : k' ≠ k) :
    (s.setSlot k d).slot k' = s.slot k' := by cases k <;> cases k' <;> first | rfl | exact absurd rfl h

/-! ### The names of Safety.lean and the operations of Machine -/

theorem after_eq (t : State) : after t = t.complete := rfl
theorem afterError_eq (s : State) (e : ErrKind) : afterError s e = s.raise e := rfl
theorem withReg_eq (s : State) (rd : Reg) (v : Elem) : withReg s rd v = s.setReg rd v := rfl
theorem withPd_eq (s : State) (k : Slot) (d : Descriptor) : withPd s k d = s.setSlot k d := rfl
theorem withSpongeIdle_eq (s : State) : withSpongeIdle s = s.resetSponge := rfl
theorem withCipherIdle_eq (s : State) : withCipherIdle s = s.resetCipher := rfl
theorem withNewSlot_eq (s : State) (k : Slot) (d : Descriptor) :
    withNewSlot s k d = s.installSlot k d := rfl

end Sys2Proof.Machine
end

