-- ==== Sys2Proof/Laws/Ops.lean ====
section
/-! SUPPORT. What each shared operation can do, once: a caller cites the lemma and unfolds nothing. -/

namespace Sys2Proof.Machine

/-! ### Completion -/

@[simp] theorem finish_ok (s t : State) : finish s (.ok t) = .next (after t) := rfl

@[simp] theorem finish_error (s : State) (e : ErrKind) :
    finish s (.error e) = .next (afterError s e) := rfl

/-- A command's completion step is a next state: all of its rule's assignments, or the error alone. -/
theorem finish_cases {s t : State} {r : Except ErrKind State} (h : finish s r = .next t) :
    (∃ u, r = .ok u ∧ t = after u) ∨ (∃ e, r = .error e ∧ t = afterError s e) := by
  cases r with
  | error e => exact .inr ⟨e, rfl, by simpa using h.symm⟩
  | ok u => exact .inl ⟨u, rfl, by simpa using h.symm⟩

/-- A completion step always answers a next state. -/
theorem finish_answers (s : State) (r : Except ErrKind State) : ∃ t, finish s r = .next t := by
  cases r <;> exact ⟨_, rfl⟩

/-! ### Slots -/

/-- `withSlot` runs its rule on a valid slot and raises `OperationError` on an invalid one. -/
theorem withSlot_ok_iff {s t : State} {k : Slot} {f : Descriptor → Except ErrKind State} :
    s.withSlot k f = .ok t ↔ (s.slot k).valid = true ∧ f (s.slot k) = .ok t := by
  unfold State.withSlot
  split <;> simp_all

theorem withSlot_valid {s : State} {k : Slot} (f : Descriptor → Except ErrKind State)
    (h : (s.slot k).valid = true) : s.withSlot k f = f (s.slot k) := by
  simp [State.withSlot, h]

theorem withSlot_invalid {s : State} {k : Slot} (f : Descriptor → Except ErrKind State)
    (h : (s.slot k).valid = false) : s.withSlot k f = .error .operationError := by
  simp [State.withSlot, h]

/-- `installSlot` writes the slot, and resets the sponge and the cipher bookkeeping where they use
it; everything else stays. -/
theorem installSlot_frame (s : State) (k : Slot) (d : Descriptor) :
    (s.installSlot k d).slot k = d ∧ (∀ k', k' ≠ k → (s.installSlot k d).slot k' = s.slot k') ∧
    (s.installSlot k d).x = s.x ∧ (s.installSlot k d).svec = s.svec ∧
    (s.installSlot k d).dbuf = s.dbuf ∧ (s.installSlot k d).dout = s.dout ∧
    (s.installSlot k d).exp = s.exp ∧ (s.installSlot k d).eq = s.eq := by
  refine ⟨?_, fun k' h => ?_, ?_⟩ <;> unfold State.installSlot
  · split <;> split <;> cases k <;> simp_all [State.slot]
  · cases k' <;> cases k <;> (try exact absurd rfl h) <;> cases hs : s.hslot <;>
      simp_all [State.slot]
  · split <;> split <;> simp_all

/-- When the cipher-usable check passes (R300). -/
theorem usable_ok_iff (s : State) : s.usable = .ok () ↔
    s.pd1.valid = true ∧ s.pd1.mode = .cipher ∧ s.pd1.m.toNat = 5 := by
  unfold State.usable
  cases hv : s.pd1.valid <;> cases hm : s.pd1.mode <;>
    by_cases h5 : s.pd1.m.toNat = 5 <;> simp [BLOCK, h5]

/-! ### The state vector -/

/-- `mapLanes` needs a valid slot and replaces the first lanes of `S` by its function's column. -/
theorem mapLanes_ok_iff {s t : State} {k : Slot} {f : Descriptor → Column → Column} :
    s.mapLanes k f = .ok t ↔ (s.slot k).valid = true ∧
      t = s.setLanes (f (s.slot k) (s.lanes (s.slot k).m.toNat)) := by
  unfold State.mapLanes
  rw [withSlot_ok_iff, Except.ok.injEq]
  exact and_congr_right fun _ => ⟨Eq.symm, Eq.symm⟩

/-- `mapLanesAt` also needs an index within the bound. -/
theorem mapLanesAt_ok_iff {s t : State} {k : Slot} {n : Nat} {bound : Descriptor → Nat}
    {f : Descriptor → Column → Column} :
    s.mapLanesAt k n bound f = .ok t ↔ (s.slot k).valid = true ∧ n ≤ bound (s.slot k) ∧
      t = s.setLanes (f (s.slot k) (s.lanes (s.slot k).m.toNat)) := by
  unfold State.mapLanesAt
  rw [withSlot_ok_iff]
  by_cases h : bound (s.slot k) < n
  · simp [h, Nat.not_le.mpr h]
  · rw [if_neg h, Except.ok.injEq]
    exact and_congr_right fun _ => ⟨fun e => ⟨Nat.not_lt.mp h, e.symm⟩, fun e => e.2.symm⟩

/-! ### The sponge step -/

/-- `absorbAt` changes lane `HPOS` of `S` and nothing else. -/
theorem absorbAt_eq (s : State) (a : Elem) : s.absorbAt a =
    { s with svec := laneWritten s.svec s.hpos.toNat (fadd (s.lane s.hpos.toNat) a) } := rfl

/-- `permuteSponge` changes lanes of `S` and nothing else. -/
theorem permuteSponge_eq (s : State) : s.permuteSponge =
    s.setLanes (permute (s.slot s.hslot) (s.lanes (s.slot s.hslot).m.toNat)) := rfl

/-! ### The secret and the counter block -/

/-- 32 secret bytes give the element Z, their value modulo p (R311). -/
theorem secretElem_ok {secret : List Byte} (h : secret.length = 32) :
    ∃ z, secretElem secret = .ok z ∧ z.toNat = leNat secret % P := by
  simpa [secretElem, SECRET_BYTES, h] using fromBytesLe_ok (Nat.le_of_eq h)

/-- A secret of another length is `InvalidInput` (R311). -/
theorem secretElem_error {secret : List Byte} (h : secret.length ≠ 32) :
    secretElem secret = .error .invalidInput := if_pos h

/-- `kdf` of 32 bytes fails only as the default hash descriptor does (R311). -/
theorem kdf_eq {xof : Xof} {secret : List Byte} {z : Elem} (h : secretElem secret = .ok z) :
    kdf xof secret = (buildHash xof 12 5).map fun d0 => kdfKey d0 z := by
  rw [kdf, h]
  cases buildHash xof 12 5 <;> rfl

/-- A block index below p stands in the counter block as it is (R313). -/
theorem counterBlock_of_lt {nonce : Elem} {j : Nat} (h : j < P) :
    counterBlock nonce j = [nonce, BitVec.ofNat 256 j, 0, 0, 0] := by
  rw [counterBlock, Nat.mod_eq_of_lt h]
  rfl

/-! ### The keystream -/

/-- Within a block `next_ks` takes the next element and moves `KPOS`. -/
theorem nextKs_within {s : State} (h : s.kpos.toNat ≠ 5) : s.nextKs =
    .ok ⟨s.ks.toList.getD s.kpos.toNat 0, { s with kpos := s.kpos + 1 }⟩ := by
  simp [State.nextKs, h]

/-- At the end of a block `next_ks` generates the next one. -/
theorem nextKs_block {s : State} (h : s.kpos.toNat = 5) (hc : s.ctr ≠ BitVec.allOnes 64) :
    s.nextKs = .ok
      ⟨(keystreamBlock s.pd1 s.nonce s.ctr.toNat).getD 0 0,
        { s with
          ks := Vector.ofFn fun i => (keystreamBlock s.pd1 s.nonce s.ctr.toNat).getD i.val 0
          ctr := s.ctr + 1
          kpos := 1 }⟩ := by
  rw [State.nextKs, if_pos h, if_neg hc]
  rfl

/-- With the counter exhausted it raises `Overflow` (R303). -/
theorem nextKs_overflow {s : State} (h : s.kpos.toNat = 5) (hc : s.ctr = BitVec.allOnes 64) :
    s.nextKs = .error .overflow := by
  rw [State.nextKs, if_pos h, if_pos hc]

/-- `next_ks` changes `KS`, `CTR`, `KPOS` and nothing else. -/
theorem nextKs_frame {s : State} {r : KeystreamStep} (h : s.nextKs = .ok r) :
    r.state = { s with ks := r.state.ks, ctr := r.state.ctr, kpos := r.state.kpos } := by
  by_cases h5 : s.kpos.toNat = 5
  · by_cases hc : s.ctr = BitVec.allOnes 64
    · rw [nextKs_overflow h5 hc] at h; cases h
    · rw [nextKs_block h5 hc] at h; cases h; rfl
  · rw [nextKs_within h5] at h; cases h; rfl

/-- A stream rule takes the next keystream element, then its own effect. -/
theorem stream_ok_iff {s t : State} {f : State → Elem → State} :
    s.stream f = .ok t ↔ ∃ r, s.nextKs = .ok r ∧ t = f r.state r.ks := by
  unfold State.stream
  cases s.nextKs with
  | error e => simp
  | ok r => exact ⟨fun e => ⟨r, rfl, by cases e; rfl⟩, fun ⟨_, e, ht⟩ => by cases e; cases ht; rfl⟩

/-! ### The bus and the step -/

/-- What a bus read can do. -/
theorem busRead_cases (addr n : Nat) (s : State) :
    (legalAccess addr n = false ∧ busRead addr n s = .fault (.illegalBusAccess addr n)) ∨
    (legalAccess addr n = true ∧ s.busy = true ∧ readAllowedBusy addr = false ∧
      busRead addr n s = .refused (.accessWhileBusy addr)) ∨
    (legalAccess addr n = true ∧ (s.busy = true → readAllowedBusy addr = true) ∧
      busRead addr n s = .next { s with rdata := some (s.readWord addr) }) := by
  unfold busRead
  cases legalAccess addr n <;> cases s.busy <;> cases readAllowedBusy addr <;> simp

/-- What a bus write can do. -/
theorem busWrite_cases (addr n : Nat) (v : Word) (s : State) :
    (legalAccess addr n = false ∧ busWrite addr n v s = .fault (.illegalBusAccess addr n)) ∨
    (legalAccess addr n = true ∧ s.busy = true ∧ writeAllowedBusy addr v = false ∧
      busWrite addr n v s = .refused (.accessWhileBusy addr)) ∨
    (legalAccess addr n = true ∧ (s.busy = true → writeAllowedBusy addr v = true) ∧
      busWrite addr n v s = .next (s.writeWord addr v)) := by
  unfold busWrite
  cases legalAccess addr n <;> cases s.busy <;> cases writeAllowedBusy addr v <;> simp

/-- A write of the register space is one of: command issue, `CTRL`, the exponent, `DBUF`, nothing. -/
theorem writeWord_cases (s : State) (addr : Nat) (v : Word) :
    s.writeWord addr v = s.issue v ∨ s.writeWord addr v = s.writeCtrl v ∨
    (∃ e, s.writeWord addr v = { s with exp := e }) ∨
    (∃ off, s.writeWord addr v = s.writeDbuf off v) ∨ s.writeWord addr v = s := by
  unfold State.writeWord
  split
  · exact .inl rfl
  · split
    · exact .inr (.inl rfl)
    · split
      · exact .inr (.inr (.inl ⟨_, rfl⟩))
      · split
        · exact .inr (.inr (.inl ⟨_, rfl⟩))
        · split
          · exact .inr (.inr (.inr (.inl ⟨_, rfl⟩)))
          · exact .inr (.inr (.inr (.inr rfl)))

/-- A `CTRL` write resets, clears the error, or does nothing (R36). -/
theorem writeCtrl_cases (s : State) (v : Word) :
    s.writeCtrl v = s.softReset ∨ s.writeCtrl v = s.clearError ∨ s.writeCtrl v = s := by
  unfold State.writeCtrl
  split
  · exact .inr (.inr rfl)
  · split
    · exact .inl rfl
    · split
      · exact .inr (.inl rfl)
      · exact .inr (.inr rfl)

/-- Everything one step can do, with the script that is left. -/
theorem step_cases (s : State) :
    (s.script = [] ∧ step s = unitTurn s) ∨
    (∃ es, s.script = .wait :: es ∧ step s = unitTurn { s with script := es }) ∨
    (∃ a n es, s.script = .read a n :: es ∧ step s = busRead a n { s with script := es }) ∨
    (∃ a n v es, s.script = .write a n v :: es ∧ step s = busWrite a n v { s with script := es }) ∨
    (∃ es, s.script = .hardReset :: es ∧
      step s = .next (State.softReset { s with script := es })) := by
  unfold step
  cases h : s.script with
  | nil => exact .inl ⟨rfl, rfl⟩
  | cons e es =>
    cases e with
    | wait => exact .inr (.inl ⟨es, rfl, rfl⟩)
    | read a n => exact .inr (.inr (.inl ⟨a, n, es, rfl, rfl⟩))
    | write a n v => exact .inr (.inr (.inr (.inl ⟨a, n, v, es, rfl, rfl⟩)))
    | hardReset => exact .inr (.inr (.inr (.inr ⟨es, rfl, rfl⟩)))

/-- The unit's turn: nothing without a pending command, else the command the word decodes to, or the
`IllegalCommand` error. -/
theorem unitTurn_cases (s : State) :
    (s.pending = none ∧ unitTurn s = .next s) ∨
    (∃ w i, s.pending = some w ∧ decodeWord w = .ok i ∧ unitTurn s = exec i s) ∨
    (∃ w e, s.pending = some w ∧ decodeWord w = .error e ∧
      unitTurn s = .next (afterError s .illegalCommand)) := by
  unfold unitTurn
  cases h : s.pending with
  | none => exact .inl ⟨rfl, rfl⟩
  | some w =>
    cases hd : decodeWord w with
    | ok i => exact .inr (.inl ⟨w, i, rfl, hd, by simp [completeWord, hd]⟩)
    | error e => exact .inr (.inr ⟨w, e, rfl, hd, by simp [completeWord, hd, afterError_eq]⟩)

end Sys2Proof.Machine
end

