-- ==== Sys2Proof/Laws/PerInstr.lean ====
section
/-! SUPPORT. One law of every command as syntax: its command word lies in its own row of the opcode map
(spec/30_encoding.md R100).  The five lemmas before it say what a mask keeps of a word of each format. -/

namespace Sys2Proof.Laws

theorem and_opcode_mask (op : BitVec 8) : op &&& 0xFF#8 = op := BitVec.and_allOnes

theorem and_encR (op : BitVec 8) (rd ra rb mrd mra mrb : BitVec 4) :
    encR op rd ra rb &&& (0xFF#8 ++ mrd ++ mra ++ mrb ++ 0xFFF#12) =
      encR op (rd &&& mrd) (ra &&& mra) (rb &&& mrb) := by
  unfold encR
  erw [BitVec.and_append, BitVec.and_append, BitVec.and_append, BitVec.and_append]
  rw [and_opcode_mask, BitVec.zero_and]

theorem and_encI (op : BitVec 8) (rd mrd : BitVec 4) (imm mimm : BitVec 16) :
    encI op rd imm &&& (0xFF#8 ++ mrd ++ 0xF#4 ++ mimm) = encI op (rd &&& mrd) (imm &&& mimm) := by
  unfold encI
  erw [BitVec.and_append, BitVec.and_append, BitVec.and_append]
  rw [and_opcode_mask, BitVec.zero_and]

theorem and_encB (op : BitVec 8) (r mr : BitVec 4) (len mlen : BitVec 6) :
    encB op r len &&& (0xFF#8 ++ mr ++ 0x3FFF#14 ++ mlen) = encB op (r &&& mr) (len &&& mlen) := by
  unfold encB
  erw [BitVec.and_append, BitVec.and_append, BitVec.and_append]
  rw [and_opcode_mask, BitVec.zero_and]

theorem and_encD (op : BitVec 8) (kb mkb m mm cap mcap : BitVec 4) (k : Slot) (mode : BitVec 1) :
    encD op kb k mode m cap &&& (0xFF#8 ++ mkb ++ 0#1 ++ 1#1 ++ 0x3F#6 ++ mm ++ mcap ++ 0xF#4) =
      encD op (kb &&& mkb) .pd0 mode (m &&& mm) (cap &&& mcap) := by
  have h : mode &&& 1#1 = mode := BitVec.and_allOnes
  unfold encD
  erw [BitVec.and_append, BitVec.and_append, BitVec.and_append, BitVec.and_append,
    BitVec.and_append, BitVec.and_append, BitVec.and_append]
  rw [and_opcode_mask, h, BitVec.zero_and, BitVec.zero_and, BitVec.and_zero]
  rfl

theorem and_encP (op : BitVec 8) (r mr i mi j mj : BitVec 4) (k : Slot) (mk : BitVec 1)
    (t mt : BitVec 7) :
    encP op r k t i j &&& (0xFF#8 ++ mr ++ mk ++ mt ++ mi ++ mj ++ 0xF#4) =
      encP op (r &&& mr) (slotOfBit (bitOfSlot k &&& mk)) (t &&& mt) (i &&& mi) (j &&& mj) := by
  have h : ∀ b : BitVec 1, bitOfSlot (slotOfBit b) = b := by decide
  unfold encP
  erw [BitVec.and_append, BitVec.and_append, BitVec.and_append, BitVec.and_append,
    BitVec.and_append, BitVec.and_append]
  rw [and_opcode_mask, BitVec.zero_and, h]

end Sys2Proof.Laws

namespace Sys2Proof.Laws.EncodesItsRow

/-- The word `encode` gives the command satisfies the match and mask of the command's row. -/
def Statement (i : Instr) : Prop := i.row.covers (encode i) = true

theorem of_and {i : Instr} {w : Word} (h : encode i &&& i.row.mask = w) (hw : w = i.row.value) :
    Statement i := by
  simp [Statement, MatchMask.covers, h, hw]

theorem nop : Statement (.nop) := by
  rfl

theorem fzero : ∀ rd, Statement (.fzero rd) := by
  intro rd
  refine of_and (and_encR 0x01#8 rd 0#4 0#4 0x0#4 0xF#4 0xF#4) ?_
  simp [encR, Instr.row]

theorem fone : ∀ rd, Statement (.fone rd) := by
  intro rd
  refine of_and (and_encR 0x02#8 rd 0#4 0#4 0x0#4 0xF#4 0xF#4) ?_
  simp [encR, Instr.row]

theorem fmov : ∀ rd ra, Statement (.fmov rd ra) := by
  intro rd ra
  refine of_and (and_encR 0x03#8 rd ra 0#4 0x0#4 0x0#4 0xF#4) ?_
  simp [encR, Instr.row]

theorem fldi : ∀ rd imm16, Statement (.fldi rd imm16) := by
  intro rd imm16
  refine of_and (and_encI 0x04#8 rd 0x0#4 imm16 0x0#16) ?_
  simp [encI, Instr.row]

theorem fld : ∀ rd len, Statement (.fld rd len) := by
  intro rd len
  refine of_and (and_encB 0x05#8 rd 0x0#4 len 0x0#6) ?_
  simp [encB, Instr.row]

theorem fldw : ∀ rd len, Statement (.fldw rd len) := by
  intro rd len
  refine of_and (and_encB 0x06#8 rd 0x0#4 len 0x0#6) ?_
  simp [encB, Instr.row]

theorem fst : ∀ ra, Statement (.fst ra) := by
  intro ra
  refine of_and (and_encR 0x07#8 0#4 ra 0#4 0xF#4 0x0#4 0xF#4) ?_
  simp [encR, Instr.row]

theorem feq : ∀ ra rb, Statement (.feq ra rb) := by
  intro ra rb
  refine of_and (and_encR 0x08#8 0#4 ra rb 0xF#4 0x0#4 0x0#4) ?_
  simp [encR, Instr.row]

theorem fadd : ∀ rd ra rb, Statement (.fadd rd ra rb) := by
  intro rd ra rb
  refine of_and (and_encR 0x10#8 rd ra rb 0x0#4 0x0#4 0x0#4) ?_
  simp [encR, Instr.row]

theorem fsub : ∀ rd ra rb, Statement (.fsub rd ra rb) := by
  intro rd ra rb
  refine of_and (and_encR 0x11#8 rd ra rb 0x0#4 0x0#4 0x0#4) ?_
  simp [encR, Instr.row]

theorem fneg : ∀ rd ra, Statement (.fneg rd ra) := by
  intro rd ra
  refine of_and (and_encR 0x12#8 rd ra 0#4 0x0#4 0x0#4 0xF#4) ?_
  simp [encR, Instr.row]

theorem fmul : ∀ rd ra rb, Statement (.fmul rd ra rb) := by
  intro rd ra rb
  refine of_and (and_encR 0x13#8 rd ra rb 0x0#4 0x0#4 0x0#4) ?_
  simp [encR, Instr.row]

theorem fsqr : ∀ rd ra, Statement (.fsqr rd ra) := by
  intro rd ra
  refine of_and (and_encR 0x14#8 rd ra 0#4 0x0#4 0x0#4 0xF#4) ?_
  simp [encR, Instr.row]

theorem fpow5 : ∀ rd ra, Statement (.fpow5 rd ra) := by
  intro rd ra
  refine of_and (and_encR 0x15#8 rd ra 0#4 0x0#4 0x0#4 0xF#4) ?_
  simp [encR, Instr.row]

theorem finv : ∀ rd ra, Statement (.finv rd ra) := by
  intro rd ra
  refine of_and (and_encR 0x16#8 rd ra 0#4 0x0#4 0x0#4 0xF#4) ?_
  simp [encR, Instr.row]

theorem fpow : ∀ rd ra rb, Statement (.fpow rd ra rb) := by
  intro rd ra rb
  refine of_and (and_encR 0x17#8 rd ra rb 0x0#4 0x0#4 0x0#4) ?_
  simp [encR, Instr.row]

theorem fpowu : ∀ rd ra, Statement (.fpowu rd ra) := by
  intro rd ra
  refine of_and (and_encR 0x18#8 rd ra 0#4 0x0#4 0x0#4 0xF#4) ?_
  simp [encR, Instr.row]

theorem pdinitH : ∀ k m cap, Statement (.pdinitH k m cap) := by
  intro k m cap
  refine of_and (and_encD 0x20#8 0#4 0xF#4 m 0x0#4 cap 0x0#4 k 0#1) ?_
  simp [encD, Instr.row, bitOfSlot]

theorem pdinitC : ∀ k m kb, Statement (.pdinitC k m kb) := by
  intro k m kb
  refine of_and (and_encD 0x20#8 kb 0x0#4 m 0x0#4 0#4 0xF#4 k 1#1) ?_
  simp [encD, Instr.row, bitOfSlot]

theorem pdclr : ∀ k, Statement (.pdclr k) := by
  intro k
  refine of_and (and_encP 0x21#8 0#4 0xF#4 0#4 0xF#4 0#4 0xF#4 k 0x0#1 0#7 0x7F#7) ?_
  simp [encP, Instr.row, slotOfBit, bitOfSlot]

theorem pdrdm : ∀ rd k i j, Statement (.pdrdm rd k i j) := by
  intro rd k i j
  refine of_and (and_encP 0x22#8 rd 0x0#4 i 0x0#4 j 0x0#4 k 0x0#1 0#7 0x7F#7) ?_
  simp [encP, Instr.row, slotOfBit, bitOfSlot]

theorem pdrdmi : ∀ rd k i j, Statement (.pdrdmi rd k i j) := by
  intro rd k i j
  refine of_and (and_encP 0x23#8 rd 0x0#4 i 0x0#4 j 0x0#4 k 0x0#1 0#7 0x7F#7) ?_
  simp [encP, Instr.row, slotOfBit, bitOfSlot]

theorem pdrdk : ∀ rd k t i, Statement (.pdrdk rd k t i) := by
  intro rd k t i
  refine of_and (and_encP 0x24#8 rd 0x0#4 i 0x0#4 0#4 0xF#4 k 0x0#1 t 0x0#7) ?_
  simp [encP, Instr.row, slotOfBit, bitOfSlot]

theorem pdrdai : ∀ rd, Statement (.pdrdai rd) := by
  intro rd
  refine of_and (and_encP 0x25#8 rd 0x0#4 0#4 0xF#4 0#4 0xF#4 .pd0 0x1#1 0#7 0x7F#7) ?_
  simp [encP, Instr.row, slotOfBit, bitOfSlot]

theorem vzero : Statement (.vzero) := by
  rfl

theorem vld : ∀ i ra, Statement (.vld i ra) := by
  intro i ra
  refine of_and (and_encP 0x29#8 ra 0x0#4 i 0x0#4 0#4 0xF#4 .pd0 0x1#1 0#7 0x7F#7) ?_
  simp [encP, Instr.row, slotOfBit, bitOfSlot]

theorem vst : ∀ rd i, Statement (.vst rd i) := by
  intro rd i
  refine of_and (and_encP 0x2A#8 rd 0x0#4 i 0x0#4 0#4 0xF#4 .pd0 0x1#1 0#7 0x7F#7) ?_
  simp [encP, Instr.row, slotOfBit, bitOfSlot]

theorem vaddk : ∀ k t, Statement (.vaddk k t) := by
  intro k t
  refine of_and (and_encP 0x2B#8 0#4 0xF#4 0#4 0xF#4 0#4 0xF#4 k 0x0#1 t 0x0#7) ?_
  simp [encP, Instr.row, slotOfBit, bitOfSlot]

theorem vsubk : ∀ k t, Statement (.vsubk k t) := by
  intro k t
  refine of_and (and_encP 0x2C#8 0#4 0xF#4 0#4 0xF#4 0#4 0xF#4 k 0x0#1 t 0x0#7) ?_
  simp [encP, Instr.row, slotOfBit, bitOfSlot]

theorem vpowa : ∀ k, Statement (.vpowa k) := by
  intro k
  refine of_and (and_encP 0x2D#8 0#4 0xF#4 0#4 0xF#4 0#4 0xF#4 k 0x0#1 0#7 0x7F#7) ?_
  simp [encP, Instr.row, slotOfBit, bitOfSlot]

theorem vpowai : ∀ k, Statement (.vpowai k) := by
  intro k
  refine of_and (and_encP 0x2E#8 0#4 0xF#4 0#4 0xF#4 0#4 0xF#4 k 0x0#1 0#7 0x7F#7) ?_
  simp [encP, Instr.row, slotOfBit, bitOfSlot]

theorem vmds : ∀ k, Statement (.vmds k) := by
  intro k
  refine of_and (and_encP 0x2F#8 0#4 0xF#4 0#4 0xF#4 0#4 0xF#4 k 0x0#1 0#7 0x7F#7) ?_
  simp [encP, Instr.row, slotOfBit, bitOfSlot]

theorem vmdsi : ∀ k, Statement (.vmdsi k) := by
  intro k
  refine of_and (and_encP 0x30#8 0#4 0xF#4 0#4 0xF#4 0#4 0xF#4 k 0x0#1 0#7 0x7F#7) ?_
  simp [encP, Instr.row, slotOfBit, bitOfSlot]

theorem psub : ∀ k t, Statement (.psub k t) := by
  intro k t
  refine of_and (and_encP 0x31#8 0#4 0xF#4 0#4 0xF#4 0#4 0xF#4 k 0x0#1 t 0x0#7) ?_
  simp [encP, Instr.row, slotOfBit, bitOfSlot]

theorem psubi : ∀ k t, Statement (.psubi k t) := by
  intro k t
  refine of_and (and_encP 0x32#8 0#4 0xF#4 0#4 0xF#4 0#4 0xF#4 k 0x0#1 t 0x0#7) ?_
  simp [encP, Instr.row, slotOfBit, bitOfSlot]

theorem perm : ∀ k, Statement (.perm k) := by
  intro k
  refine of_and (and_encP 0x33#8 0#4 0xF#4 0#4 0xF#4 0#4 0xF#4 k 0x0#1 0#7 0x7F#7) ?_
  simp [encP, Instr.row, slotOfBit, bitOfSlot]

theorem permi : ∀ k, Statement (.permi k) := by
  intro k
  refine of_and (and_encP 0x34#8 0#4 0xF#4 0#4 0xF#4 0#4 0xF#4 k 0x0#1 0#7 0x7F#7) ?_
  simp [encP, Instr.row, slotOfBit, bitOfSlot]

theorem hinit : ∀ k dlen, Statement (.hinit k dlen) := by
  intro k dlen
  refine of_and (and_encP 0x40#8 0#4 0xF#4 dlen 0x0#4 0#4 0xF#4 k 0x0#1 0#7 0x7F#7) ?_
  simp [encP, Instr.row, slotOfBit, bitOfSlot]

theorem habs : ∀ ra, Statement (.habs ra) := by
  intro ra
  refine of_and (and_encR 0x41#8 0#4 ra 0#4 0xF#4 0x0#4 0xF#4) ?_
  simp [encR, Instr.row]

theorem hfin : Statement (.hfin) := by
  rfl

theorem hsqz : ∀ rd i, Statement (.hsqz rd i) := by
  intro rd i
  refine of_and (and_encP 0x43#8 rd 0x0#4 i 0x0#4 0#4 0xF#4 .pd0 0x1#1 0#7 0x7F#7) ?_
  simp [encP, Instr.row, slotOfBit, bitOfSlot]

theorem ckey : ∀ len, Statement (.ckey len) := by
  intro len
  refine of_and (and_encB 0x50#8 0#4 0xF#4 len 0x0#6) ?_
  simp [encB, Instr.row]

theorem cnonce : ∀ len, Statement (.cnonce len) := by
  intro len
  refine of_and (and_encB 0x51#8 0#4 0xF#4 len 0x0#6) ?_
  simp [encB, Instr.row]

theorem cenc : ∀ rd ra, Statement (.cenc rd ra) := by
  intro rd ra
  refine of_and (and_encR 0x52#8 rd ra 0#4 0x0#4 0x0#4 0xF#4) ?_
  simp [encR, Instr.row]

theorem cdec : ∀ rd ra, Statement (.cdec rd ra) := by
  intro rd ra
  refine of_and (and_encR 0x53#8 rd ra 0#4 0x0#4 0x0#4 0xF#4) ?_
  simp [encR, Instr.row]

theorem cencb : ∀ ra, Statement (.cencb ra) := by
  intro ra
  refine of_and (and_encR 0x54#8 0#4 ra 0#4 0xF#4 0x0#4 0xF#4) ?_
  simp [encR, Instr.row]

theorem cdecb : ∀ rd len, Statement (.cdecb rd len) := by
  intro rd len
  refine of_and (and_encB 0x55#8 rd 0x0#4 len 0x0#6) ?_
  simp [encB, Instr.row]

end Sys2Proof.Laws.EncodesItsRow
end

