-- ==== Sys2Proof/Laws/Prime.lean ====
section
/-! SUPPORT. The modulus of the field is prime, by Lucas certificates (spec/00_scope.md R7). -/

namespace Sys2Proof.Laws

/-- g to the power e modulo n by squaring, for e below 2 to the power of the first argument. -/
def powMod (n : ℕ) : ℕ → ℕ → ℕ → ℕ
  | 0, _, _ => 1 % n
  | f + 1, g, e =>
    let r := powMod n f (g * g % n) (e / 2)
    if e % 2 = 1 then g * r % n else r

theorem powMod_eq (n : ℕ) : ∀ f g e, e < 2 ^ f → powMod n f g e = g ^ e % n
  | 0, g, e, h => by
    have : e = 0 := by simpa using h
    simp [powMod, this]
  | f + 1, g, e, h => by
    have he : e / 2 < 2 ^ f := by rw [pow_succ] at h; omega
    have ih := powMod_eq n f (g * g % n) (e / 2) he
    have hsq : (g * g % n) ^ (e / 2) % n = g ^ (2 * (e / 2)) % n := by
      rw [← Nat.pow_mod, pow_mul, sq]
    simp only [powMod, ih, hsq]
    split
    · rename_i h1
      conv_rhs => rw [← Nat.div_add_mod e 2, h1, pow_succ, mul_comm, Nat.mul_mod]
      rw [Nat.mul_mod, Nat.mod_mod]
    · rename_i h1
      have : 2 * (e / 2) = e := by omega
      rw [this]

/-- Lucas: n is prime when g has order n − 1 modulo n, shown with the prime factors of n − 1. -/
theorem prime_of_order (n g : ℕ) (fs : List ℕ) (hn : 1 < n) (hb : n < 2 ^ 256)
    (hprod : fs.prod = n - 1) (hp : ∀ q ∈ fs, q.Prime) (h1 : powMod n 256 g (n - 1) = 1)
    (h2 : ∀ q ∈ fs, powMod n 256 g ((n - 1) / q) ≠ 1) : n.Prime := by
  have cast_eq_one : ∀ e < 2 ^ 256, ((g : ZMod n) ^ e = 1) ↔ powMod n 256 g e = 1 := by
    intro e he
    rw [powMod_eq n 256 g e he]
    have h := ZMod.natCast_eq_natCast_iff' (g ^ e) 1 n
    rw [Nat.mod_eq_of_lt hn] at h
    rw [← h, Nat.cast_pow, Nat.cast_one]
  refine lucas_primality n (g : ZMod n) ((cast_eq_one _ (by omega)).mpr h1) fun q hq hd => ?_
  rw [← hprod] at hd
  obtain ⟨r, hr, hqr⟩ := (Prime.dvd_prod_iff hq.prime).mp hd
  rw [(Nat.prime_dvd_prime_iff_eq hq (hp r hr)).mp hqr]
  refine fun h => h2 r hr ((cast_eq_one _ ?_).mp h)
  have := Nat.div_le_self (n - 1) r
  omega

theorem prime_2773320623 : Nat.Prime 2773320623 := by
  refine prime_of_order _ 5 [2, 2437, 569003] (by decide)
    (by decide) (by decide +kernel) ?_ (by decide +kernel) (by decide +kernel)
  · simp only [List.forall_mem_cons, List.not_mem_nil, false_implies, implies_true, and_true]
    exact ⟨by norm_num, by norm_num, by norm_num⟩

theorem prime_72106336199 : Nat.Prime 72106336199 := by
  refine prime_of_order _ 7 [2, 13, 2773320623] (by decide)
    (by decide) (by decide +kernel) ?_ (by decide +kernel) (by decide +kernel)
  · simp only [List.forall_mem_cons, List.not_mem_nil, false_implies, implies_true, and_true]
    exact ⟨by norm_num, by norm_num, prime_2773320623⟩

theorem prime_16_digits : Nat.Prime 1919519569386763 := by
  refine prime_of_order _ 2 [2, 3, 7, 19, 47, 47, 127, 8574133] (by decide)
    (by decide) (by decide +kernel) ?_ (by decide +kernel) (by decide +kernel)
  · simp only [List.forall_mem_cons, List.not_mem_nil, false_implies, implies_true, and_true]
    exact ⟨by norm_num, by norm_num, by norm_num, by norm_num,
      by norm_num, by norm_num, by norm_num, by norm_num⟩

theorem prime_17_digits : Nat.Prime 31757755568855353 := by
  refine prime_of_order _ 10 [2, 2, 2, 3, 31, 107, 223, 4153, 430751] (by decide)
    (by decide) (by decide +kernel) ?_ (by decide +kernel) (by decide +kernel)
  · simp only [List.forall_mem_cons, List.not_mem_nil, false_implies, implies_true, and_true]
    exact ⟨by norm_num, by norm_num, by norm_num, by norm_num,
      by norm_num, by norm_num, by norm_num, by norm_num, by norm_num⟩

theorem prime_35_digits : Nat.Prime 75445702479781427272750846543864801 := by
  refine prime_of_order _ 7 [2, 2, 2, 2, 2, 3, 3, 5, 5, 75707, 72106336199, 1919519569386763] (by decide)
    (by decide) (by decide +kernel) ?_ (by decide +kernel) (by decide +kernel)
  · simp only [List.forall_mem_cons, List.not_mem_nil, false_implies, implies_true, and_true]
    exact ⟨by norm_num, by norm_num, by norm_num, by norm_num,
      by norm_num, by norm_num, by norm_num, by norm_num, by norm_num, by norm_num, prime_72106336199, prime_16_digits⟩

theorem prime_71_digits : Nat.Prime 74058212732561358302231226437062788676166966415465897661863160754340907 := by
  refine prime_of_order _ 2 [2, 3, 353, 57467, 132049, 1923133, 31757755568855353, 75445702479781427272750846543864801] (by decide)
    (by decide) (by decide +kernel) ?_ (by decide +kernel) (by decide +kernel)
  · simp only [List.forall_mem_cons, List.not_mem_nil, false_implies, implies_true, and_true]
    exact ⟨by norm_num, by norm_num, by norm_num, by norm_num,
      by norm_num, by norm_num, prime_17_digits, prime_35_digits⟩

theorem P_prime : P.Prime := by
  unfold P
  refine prime_of_order _ 2 [2, 2, 3, 65147, 74058212732561358302231226437062788676166966415465897661863160754340907] (by decide)
    (by decide) (by decide +kernel) ?_ (by decide +kernel) (by decide +kernel)
  · simp only [List.forall_mem_cons, List.not_mem_nil, false_implies, implies_true, and_true]
    exact ⟨by norm_num, by norm_num, by norm_num, by norm_num, prime_71_digits⟩

end Sys2Proof.Laws
end

