-- ==== Sys2Proof/Tests/Slice0.lean ====
section
/-! SUPPORT. The model's own tests: ill-formed commands, decoding of words the spec writes out, small
one-step tests with the values of the spec's rules and of spec/95, and for every obligation with
hypotheses a witness that meets them. -/

open Sys2Proof Sys2Proof.Machine

namespace Sys2Proof.Tests

set_option Elab.async false

/-! ### WellFormed: the one check, and its boundary (R98, R101) -/

theorem test_wellFormed_refuses_key_wrap : ¬ (Instr.pdinitC .pd0 5 12).WellFormed := by decide
theorem test_wellFormed_accepts_last_key : (Instr.pdinitC .pd1 12 4).WellFormed := by decide

/-! ### Decoding: one word per row, written out from R91 to R95 and R100 -/

theorem test_decode_nop : decodeWord 0x00000000#32 = .ok (.nop) := by decide
theorem test_decode_fzero : decodeWord 0x01300000#32 = .ok (.fzero 3) := by decide
theorem test_decode_fone : decodeWord 0x02300000#32 = .ok (.fone 3) := by decide
theorem test_decode_fmov : decodeWord 0x03210000#32 = .ok (.fmov 2 1) := by decide
theorem test_decode_fldi : decodeWord 0x0410000A#32 = .ok (.fldi 1 10) := by decide
theorem test_decode_fld : decodeWord 0x05700020#32 = .ok (.fld 7 32) := by decide
theorem test_decode_fldw : decodeWord 0x06100030#32 = .ok (.fldw 1 48) := by decide
theorem test_decode_fst : decodeWord 0x07010000#32 = .ok (.fst 1) := by decide
theorem test_decode_feq : decodeWord 0x08012000#32 = .ok (.feq 1 2) := by decide
theorem test_decode_fadd : decodeWord 0x10312000#32 = .ok (.fadd 3 1 2) := by decide
theorem test_decode_fsub : decodeWord 0x11312000#32 = .ok (.fsub 3 1 2) := by decide
theorem test_decode_fneg : decodeWord 0x12210000#32 = .ok (.fneg 2 1) := by decide
theorem test_decode_fmul : decodeWord 0x13312000#32 = .ok (.fmul 3 1 2) := by decide
theorem test_decode_fsqr : decodeWord 0x14310000#32 = .ok (.fsqr 3 1) := by decide
theorem test_decode_fpow5 : decodeWord 0x15310000#32 = .ok (.fpow5 3 1) := by decide
theorem test_decode_finv : decodeWord 0x16310000#32 = .ok (.finv 3 1) := by decide
theorem test_decode_fpow : decodeWord 0x17312000#32 = .ok (.fpow 3 1 2) := by decide
theorem test_decode_fpowu : decodeWord 0x18310000#32 = .ok (.fpowu 3 1) := by decide
theorem test_decode_pdinitH : decodeWord 0x20000C50#32 = .ok (.pdinitH .pd0 12 5) := by decide
theorem test_decode_pdinitC : decodeWord 0x204C0500#32 = .ok (.pdinitC .pd1 5 4) := by decide
theorem test_decode_pdclr : decodeWord 0x21080000#32 = .ok (.pdclr .pd1) := by decide
theorem test_decode_pdrdm : decodeWord 0x22100010#32 = .ok (.pdrdm 1 .pd0 0 1) := by decide
theorem test_decode_pdrdmi : decodeWord 0x23100000#32 = .ok (.pdrdmi 1 .pd0 0 0) := by decide
theorem test_decode_pdrdk : decodeWord 0x24194400#32 = .ok (.pdrdk 1 .pd1 20 4) := by decide
theorem test_decode_pdrdai : decodeWord 0x25200000#32 = .ok (.pdrdai 2) := by decide
theorem test_decode_vzero : decodeWord 0x28000000#32 = .ok (.vzero) := by decide
theorem test_decode_vld : decodeWord 0x29700200#32 = .ok (.vld 2 7) := by decide
theorem test_decode_vst : decodeWord 0x2A700200#32 = .ok (.vst 7 2) := by decide
theorem test_decode_vaddk : decodeWord 0x2B083000#32 = .ok (.vaddk .pd1 3) := by decide
theorem test_decode_vsubk : decodeWord 0x2C080000#32 = .ok (.vsubk .pd1 0) := by decide
theorem test_decode_vpowa : decodeWord 0x2D000000#32 = .ok (.vpowa .pd0) := by decide
theorem test_decode_vpowai : decodeWord 0x2E000000#32 = .ok (.vpowai .pd0) := by decide
theorem test_decode_vmds : decodeWord 0x2F000000#32 = .ok (.vmds .pd0) := by decide
theorem test_decode_vmdsi : decodeWord 0x30000000#32 = .ok (.vmdsi .pd0) := by decide
theorem test_decode_psub : decodeWord 0x31080000#32 = .ok (.psub .pd1 0) := by decide
theorem test_decode_psubi : decodeWord 0x32093000#32 = .ok (.psubi .pd1 19) := by decide
theorem test_decode_perm : decodeWord 0x33080000#32 = .ok (.perm .pd1) := by decide
theorem test_decode_permi : decodeWord 0x34080000#32 = .ok (.permi .pd1) := by decide
theorem test_decode_hinit : decodeWord 0x40000500#32 = .ok (.hinit .pd0 5) := by decide
theorem test_decode_habs : decodeWord 0x41010000#32 = .ok (.habs 1) := by decide
theorem test_decode_hfin : decodeWord 0x42000000#32 = .ok (.hfin) := by decide
theorem test_decode_hsqz : decodeWord 0x43900100#32 = .ok (.hsqz 9 1) := by decide
theorem test_decode_ckey : decodeWord 0x50000020#32 = .ok (.ckey 32) := by decide
theorem test_decode_cnonce : decodeWord 0x51000010#32 = .ok (.cnonce 16) := by decide
theorem test_decode_cenc : decodeWord 0x52210000#32 = .ok (.cenc 2 1) := by decide
theorem test_decode_cdec : decodeWord 0x53320000#32 = .ok (.cdec 3 2) := by decide
theorem test_decode_cencb : decodeWord 0x54010000#32 = .ok (.cencb 1) := by decide
theorem test_decode_cdecb : decodeWord 0x55300020#32 = .ok (.cdecb 3 32) := by decide

/-- Illegal words of R102: an unassigned opcode, must-be-zero bits, and the key range. -/
theorem test_decode_illegal_words :
    decodeWord 0x09000000#32 = .error .unassignedOpcode ∧
    decodeWord 0xFFFFFFFF#32 = .error .unassignedOpcode ∧
    decodeWord 0x10312001#32 = .error .reservedBits ∧
    decodeWord 0x20C40500#32 = .error .keyRange ∧
    decodeWord 0x20400250#32 = .error .reservedBits := by decide

/-- The word the host numbers: bit 0 is the least significant (R90). -/
theorem test_decodeTableWord : decodeTableWord 32 0x10312000 = some (.fadd 3 1 2) := by decide

/-! ### Helper states -/

/-- A valid hash slot with m = 2, cap = 1, N = 35 and zero subkeys; tables of spec/95 2.5. -/
abbrev hashSlot : Descriptor :=
  { valid := true, mode := .hash, m := 2, cap := 1, n := 35
    mds := padTable 12 [[0x3ffffffffffffffffffffffffffffffffffffffffffffffffffffffffffffff7#256, 0x5555555555555555555555555555555555555555555555555555555555555549#256],
   [0x5555555555555555555555555555555555555555555555555555555555555549#256, 0x5ffffffffffffffffffffffffffffffffffffffffffffffffffffffffffffff2#256]]
    mdsi := padTable 12 [[0x12#256, 0x7fffffffffffffffffffffffffffffffffffffffffffffffffffffffffffffd5#256],
   [0x7fffffffffffffffffffffffffffffffffffffffffffffffffffffffffffffd5#256, 0x24#256]]
    k := Vector.replicate 71 (Vector.replicate 12 0#256) }

/-- A valid cipher slot with m = 5, N = 10 and zero subkeys; tables of spec/95 2.5. -/
abbrev cipherSlot : Descriptor :=
  { valid := true, mode := .cipher, m := 5, cap := 0, n := 10
    mds := padTable 12 [[0x3ffffffffffffffffffffffffffffffffffffffffffffffffffffffffffffff7#256, 0x5555555555555555555555555555555555555555555555555555555555555549#256, 0x5ffffffffffffffffffffffffffffffffffffffffffffffffffffffffffffff2#256, 0x1999999999999999999999999999999999999999999999999999999999999996#256, 0x6aaaaaaaaaaaaaaaaaaaaaaaaaaaaaaaaaaaaaaaaaaaaaaaaaaaaaaaaaaaaa9b#256],
   [0x5555555555555555555555555555555555555555555555555555555555555549#256, 0x5ffffffffffffffffffffffffffffffffffffffffffffffffffffffffffffff2#256, 0x1999999999999999999999999999999999999999999999999999999999999996#256, 0x6aaaaaaaaaaaaaaaaaaaaaaaaaaaaaaaaaaaaaaaaaaaaaaaaaaaaaaaaaaaaa9b#256, 0x249249249249249249249249249249249249249249249249249249249249248d#256],
   [0x5ffffffffffffffffffffffffffffffffffffffffffffffffffffffffffffff2#256, 0x1999999999999999999999999999999999999999999999999999999999999996#256, 0x6aaaaaaaaaaaaaaaaaaaaaaaaaaaaaaaaaaaaaaaaaaaaaaaaaaaaaaaaaaaaa9b#256, 0x249249249249249249249249249249249249249249249249249249249249248d#256, 0x2ffffffffffffffffffffffffffffffffffffffffffffffffffffffffffffff9#256],
   [0x1999999999999999999999999999999999999999999999999999999999999996#256, 0x6aaaaaaaaaaaaaaaaaaaaaaaaaaaaaaaaaaaaaaaaaaaaaaaaaaaaaaaaaaaaa9b#256, 0x249249249249249249249249249249249249249249249249249249249249248d#256, 0x2ffffffffffffffffffffffffffffffffffffffffffffffffffffffffffffff9#256, 0x471c71c71c71c71c71c71c71c71c71c71c71c71c71c71c71c71c71c71c71c712#256],
   [0x6aaaaaaaaaaaaaaaaaaaaaaaaaaaaaaaaaaaaaaaaaaaaaaaaaaaaaaaaaaaaa9b#256, 0x249249249249249249249249249249249249249249249249249249249249248d#256, 0x2ffffffffffffffffffffffffffffffffffffffffffffffffffffffffffffff9#256, 0x471c71c71c71c71c71c71c71c71c71c71c71c71c71c71c71c71c71c71c71c712#256, 0xccccccccccccccccccccccccccccccccccccccccccccccccccccccccccccccb#256]]
    mdsi := padTable 12 [[0x1c2#256, 0x7fffffffffffffffffffffffffffffffffffffffffffffffffffffffffffef85#256, 0x3138#256, 0x7fffffffffffffffffffffffffffffffffffffffffffffffffffffffffffc4dd#256, 0x189c#256],
   [0x7fffffffffffffffffffffffffffffffffffffffffffffffffffffffffffef85#256, 0xac44#256, 0x7ffffffffffffffffffffffffffffffffffffffffffffffffffffffffffdd8ad#256, 0x2b110#256, 0x7ffffffffffffffffffffffffffffffffffffffffffffffffffffffffffed89d#256],
   [0x3138#256, 0x7ffffffffffffffffffffffffffffffffffffffffffffffffffffffffffdd8ad#256, 0x72d80#256, 0x7ffffffffffffffffffffffffffffffffffffffffffffffffffffffffff6c56d#256, 0x40998#256],
   [0x7fffffffffffffffffffffffffffffffffffffffffffffffffffffffffffc4dd#256, 0x2b110#256, 0x7ffffffffffffffffffffffffffffffffffffffffffffffffffffffffff6c56d#256, 0xc1cc8#256, 0x7ffffffffffffffffffffffffffffffffffffffffffffffffffffffffffa9dcd#256],
   [0x189c#256, 0x7ffffffffffffffffffffffffffffffffffffffffffffffffffffffffffed89d#256, 0x40998#256, 0x7ffffffffffffffffffffffffffffffffffffffffffffffffffffffffffa9dcd#256, 0x26c28#256]]
    k := Vector.replicate 71 (Vector.replicate 12 0#256) }

/-- The elements given, then zeros, in x0, x1, … -/
abbrev regs (l : List Elem) : Vector Elem 16 := Vector.ofFn fun i => l.getD i.val 0#256

/-- The elements given, then zeros, in the lanes of S. -/
abbrev lanesOf (l : List Elem) : Vector Elem 12 := Vector.ofFn fun i => l.getD i.val 0#256

/-- The reset state with x1 = a, x2 = b. -/
abbrev two (a b : Elem) : State := { State.reset with x := regs [0#256, a, b] }

/-- Both slots valid. -/
abbrev slots : State := { State.reset with pd0 := hashSlot, pd1 := cipherSlot }

/-- Absorbing into slot 0, a full block after one element. -/
abbrev absorbing : State := { slots with hph := .absorb, hrate := 1, hdlen := 2 }

/-- Digest of length 2 ready. -/
abbrev squeezing : State :=
  { slots with hph := .squeeze, hrate := 1, hdlen := 2, svec := lanesOf [7#256, 9#256] }

/-- A nonce loaded, no block generated. -/
abbrev ready : State := { slots with crdy := true, kpos := 5 }

/-- A nonce loaded and a block partly used. -/
abbrev midBlock : State :=
  { slots with
    crdy := true, kpos := 1, ctr := 1
    ks := Vector.ofFn fun i => ([1#256, 2#256, 3#256, 4#256, 5#256] : List Elem).getD i.val 0#256 }

/-- A companion that answers one request. -/
abbrev oneAnswer (seed : List Byte) (n : Nat) (bs : List Byte) : Xof :=
  .table [{ seed := seed, n := n, bytes := bs }]

/-- The bytes of C = the m×m identity, and r₀ = c = 0. -/
abbrev identityBytes (m : Nat) : List Byte :=
  (List.range (48 * (m * m + 2 * m))).map fun i =>
    if i % 48 = 0 ∧ i / 48 < m * m ∧ i / 48 % (m + 1) = 0 then 1#8 else 0#8

/-- The state after a command that answers a next state. -/
def nextOf (o : Host.Outcome State Fault Refusal) : Option State :=
  match o with
  | .next t => some t
  | _ => none

/-- x[r] after a command that raises nothing. -/
def regAfter (i : Instr) (s : State) (r : Reg) : Option Elem :=
  (nextOf (exec i s)).bind fun t => if t.err then none else some (t.reg r)

/-- ERRCODE after a command that raises. -/
def codeAfter (i : Instr) (s : State) : Option (BitVec 3) :=
  (nextOf (exec i s)).bind fun t => if t.err then some t.errcode else none

/-- S[i] after a command that raises nothing. -/
def laneAfter (i : Instr) (s : State) (n : Nat) : Option Elem :=
  (nextOf (exec i s)).bind fun t => if t.err then none else some (t.lane n)

/-! ### One-step tests: field commands, values of R171 to R187 -/

theorem test_fzero : regAfter (.fzero 1) (two 10 3) 1 = some 0 := by
  decide +kernel
theorem test_fone : regAfter (.fone 3) (two 10 3) 3 = some 1 := by
  decide +kernel
theorem test_fmov : regAfter (.fmov 2 1) (two 10 3) 2 = some 10 := by
  decide +kernel
theorem test_fldi_zero_extends : regAfter (.fldi 1 0xFFFF) State.reset 1 = some 65535 := by
  decide +kernel
theorem test_fadd : regAfter (.fadd 3 1 2) (two 10 3) 3 = some 13 := by
  decide +kernel
theorem test_fadd_wraps : regAfter (.fadd 1 1 2) (two 0x7fffffffffffffffffffffffffffffffffffffffffffffffffffffffffffffec#256 1) 1 = some 0 := by
  decide +kernel
theorem test_fsub_order : regAfter (.fsub 3 1 2) (two 10 3) 3 = some 7 := by
  decide +kernel
theorem test_fsub_borrow : regAfter (.fsub 2 2 1) (two 10 3) 2 = some 0x7fffffffffffffffffffffffffffffffffffffffffffffffffffffffffffffe6#256 := by
  decide +kernel
theorem test_fneg_zero : regAfter (.fneg 2 1) (two 0 3) 2 = some 0 := by
  decide +kernel
theorem test_fneg_one : regAfter (.fneg 2 1) (two 1 3) 2 = some 0x7fffffffffffffffffffffffffffffffffffffffffffffffffffffffffffffec#256 := by
  decide +kernel
theorem test_fmul : regAfter (.fmul 3 1 2) (two 10 3) 3 = some 30 := by
  decide +kernel
theorem test_fmul_reduces : regAfter (.fmul 3 1 2) (two 2 0x4000000000000000000000000000000000000000000000000000000000000000#256) 3 = some 19 := by
  decide +kernel
theorem test_fsqr : regAfter (.fsqr 3 1) (two 10 3) 3 = some 100 := by
  decide +kernel
theorem test_fpow5 : regAfter (.fpow5 3 1) (two 2 3) 3 = some 32 := by
  decide +kernel
theorem test_finv : regAfter (.finv 3 1) (two 2 3) 3 = some 0x3ffffffffffffffffffffffffffffffffffffffffffffffffffffffffffffff7#256 := by
  decide +kernel
theorem test_finv_zero : codeAfter (.finv 3 1) (two 0 3) = some 1 := by
  decide +kernel
theorem test_fpow_zero_zero : regAfter (.fpow 3 1 2) (two 0 0) 3 = some 1 := by
  decide +kernel
theorem test_fpow : regAfter (.fpow 3 1 2) (two 2 255) 3 = some 19 := by
  decide +kernel
theorem test_fpowu : regAfter (.fpowu 3 1) { two 2 0 with exp := 64 } 3 = some 0x10000000000000000#256 := by
  decide +kernel
theorem test_fld_reduces : regAfter (.fld 7 32) { State.reset with dbuf := Vector.replicate 48 0xFF#8 } 7 = some 37 := by
  decide +kernel
theorem test_fld_too_long : codeAfter (.fld 7 33) State.reset = some 1 := by
  decide +kernel
theorem test_fldw : regAfter (.fldw 1 48) { State.reset with dbuf := Vector.replicate 48 0xFF#8 } 1 =
      some 0x25ffffffffffffffffffffffffffffffff#256 := by
  decide +kernel
theorem test_fldw_short : codeAfter (.fldw 1 32) State.reset = some 1 := by
  decide +kernel
theorem test_fst : ((nextOf (exec (.fst 1) (two 0x7fffffffffffffffffffffffffffffffffffffffffffffffffffffffffffffec#256 0))).map fun t => (t.doutByte 0, t.doutByte 31)) =
      some (0xEC, 0x7F) := by
  decide +kernel
theorem test_feq_true : ((nextOf (exec (.feq 1 2) (two 7 7))).map State.eq) = some true := by
  decide +kernel
theorem test_feq_high_limb : ((nextOf (exec (.feq 1 2) (two 5 0x10000000000000005#256))).map State.eq) = some false := by
  decide +kernel

/-! ### One-step tests: descriptors, state vector, permutation (R244 to R263) -/

theorem test_pdinitH_bounds : codeAfter (.pdinitH .pd0 13 1) State.reset = some 1 ∧
    codeAfter (.pdinitH .pd0 12 12) State.reset = some 1 := by
  decide +kernel
theorem test_pdinitC_bounds : codeAfter (.pdinitC .pd0 1 0) State.reset = some 1 := by
  decide +kernel
theorem test_pdinitC_companion_fails : codeAfter (.pdinitC .pd0 5 0)
    { State.reset with cfg := { xof := .table [], pdrdkCipherReadable := true } } = some 4 := by
  decide +kernel
theorem test_pdclr_resets_cipher : ((nextOf (exec (.pdclr .pd1) ready)).map fun t => (t.pd1.valid, t.crdy, t.pd0.valid)) =
      some (false, false, true) := by
  decide +kernel
theorem test_pdclr_resets_sponge : ((nextOf (exec (.pdclr .pd0) squeezing)).map fun t => (t.hph, t.hdlen, t.pd1.valid)) =
      some (.idle, 0, true) := by
  decide +kernel
theorem test_pdrdm : regAfter (.pdrdm 1 .pd0 0 1) slots 1 = some 0x5555555555555555555555555555555555555555555555555555555555555549#256 := by
  decide +kernel
theorem test_pdrdm_beyond : codeAfter (.pdrdm 1 .pd0 0 2) slots = some 2 := by
  decide +kernel
theorem test_pdrdmi : regAfter (.pdrdmi 1 .pd1 0 0) slots 1 = some 450 := by
  decide +kernel
theorem test_pdrdk_bounds : regAfter (.pdrdk 1 .pd1 20 4) slots 1 = some 0 ∧ codeAfter (.pdrdk 1 .pd1 21 4) slots = some 2 := by
  decide +kernel
theorem test_pdrdk_unreadable : codeAfter (.pdrdk 1 .pd1 0 0)
    { slots with cfg := { xof := .shake256, pdrdkCipherReadable := false } } = some 4 := by
  decide +kernel
theorem test_pdrdai : regAfter (.pdrdai 2) State.reset 2 =
    some 0x4cccccccccccccccccccccccccccccccccccccccccccccccccccccccccccccc1#256 := by
  decide +kernel
theorem test_vzero : laneAfter .vzero squeezing 1 = some 0 := by
  decide +kernel
theorem test_vld_vst : laneAfter (.vld 11 1) (two 10 3) 11 = some 10 ∧ regAfter (.vst 4 1) squeezing 4 = some 9 := by
  decide +kernel
theorem test_vld_beyond : codeAfter (.vld 12 1) State.reset = some 2 ∧ codeAfter (.vst 1 15) State.reset = some 2 := by
  decide +kernel
theorem test_vaddk_beyond : codeAfter (.vaddk .pd0 71) slots = some 2 ∧ codeAfter (.vsubk .pd1 21) slots = some 2 := by
  decide +kernel
theorem test_vpowa_lanes : laneAfter (.vpowa .pd0) { slots with svec := lanesOf [2#256, 10#256, 3#256] } 1 = some 100000 ∧
    laneAfter (.vpowa .pd0) { slots with svec := lanesOf [2#256, 10#256, 3#256] } 2 = some 3 := by
  decide +kernel
theorem test_vpowai : laneAfter (.vpowai .pd0) { slots with svec := lanesOf [32#256] } 0 = some 2 := by
  decide +kernel
theorem test_vmds : laneAfter (.vmds .pd0) { slots with svec := lanesOf [6#256, 12#256] } 0 = some 7 ∧
    laneAfter (.vmds .pd0) { slots with svec := lanesOf [6#256, 12#256] } 1 = some 5 := by
  decide +kernel
theorem test_vmdsi : laneAfter (.vmdsi .pd0) { slots with svec := lanesOf [7#256, 5#256] } 0 = some 6 ∧
    laneAfter (.vmdsi .pd0) { slots with svec := lanesOf [7#256, 5#256] } 1 = some 12 := by
  decide +kernel
theorem test_psub_exponents : laneAfter (.psub .pd0 0) { slots with svec := lanesOf [2#256] } 0 = some 16 ∧
    laneAfter (.psub .pd1 0) { slots with svec := lanesOf [32#256] } 0 = some 1 := by
  decide +kernel
theorem test_psub_beyond : codeAfter (.psub .pd0 70) slots = some 2 ∧ codeAfter (.psubi .pd1 20) slots = some 2 := by
  decide +kernel
theorem test_psubi : laneAfter (.psubi .pd0 0) { slots with svec := lanesOf [16#256, 0x2aaaaaaaaaaaaaaaaaaaaaaaaaaaaaaaaaaaaaaaaaaaaaaaaaaaaaaaaaaaaaaf#256] } 0 = some 2 := by
  decide +kernel
theorem test_perm_invalid : codeAfter (.perm .pd0) State.reset = some 4 ∧ codeAfter (.permi .pd1) State.reset = some 4 := by
  decide +kernel

/-! ### One-step tests: sponge and cipher (R283 to R286, R301 to R307) -/

theorem test_hinit : ((nextOf (exec (.hinit .pd0 2) squeezing)).map fun t => (t.hph, t.hrate, t.hdlen, t.lane 0)) =
      some (.absorb, 1, 2, 0) := by
  decide +kernel
theorem test_hinit_errors : codeAfter (.hinit .pd1 2) slots = some 4 ∧ codeAfter (.hinit .pd0 3) slots = some 1 := by
  decide +kernel
theorem test_habs_phase : codeAfter (.habs 1) squeezing = some 4 ∧ codeAfter .hfin slots = some 4 := by
  decide +kernel
theorem test_habs_adds : ((nextOf (exec (.habs 1) { absorbing with hrate := 2, x := regs [0#256, 10#256] })).map
      fun t => (t.hpos, t.lane 0)) = some (1, 10) := by
  decide +kernel
theorem test_hsqz : regAfter (.hsqz 9 1) squeezing 9 = some 9 ∧ codeAfter (.hsqz 9 2) squeezing = some 2 ∧
    codeAfter (.hsqz 9 0) absorbing = some 4 := by
  decide +kernel
theorem test_ckey_length : codeAfter (.ckey 31) State.reset = some 1 := by
  decide +kernel
theorem test_cnonce : ((nextOf (exec (.cnonce 16) { slots with dbuf := Vector.replicate 48 0xFF#8 })).map
      fun t => (t.nonce, t.kpos, t.crdy, t.ctr)) =
      some (0xffffffffffffffffffffffffffffffff#256, 5, true, 0) := by
  decide +kernel
theorem test_cnonce_errors : codeAfter (.cnonce 16) State.reset = some 4 ∧ codeAfter (.cnonce 15) slots = some 1 ∧
    codeAfter (.cnonce 15) { slots with pd1 := { cipherSlot with m := 4 } } = some 3 := by
  decide +kernel
theorem test_cenc_mid_block : regAfter (.cenc 2 1) { midBlock with x := regs [0#256, 10#256] } 2 = some 12 := by
  decide +kernel
theorem test_cdec_mid_block : regAfter (.cdec 2 1) { midBlock with x := regs [0#256, 10#256] } 2 = some 8 := by
  decide +kernel
theorem test_cencb_mid_block : ((nextOf (exec (.cencb 1) { midBlock with x := regs [0#256, 10#256] })).map
      fun t => (t.doutByte 0, t.kpos)) = some (12, 2) := by
  decide +kernel
theorem test_cdecb_mid_block : regAfter (.cdecb 3 32) { midBlock with dbuf := Vector.replicate 48 0xFF#8 } 3 = some 35 := by
  decide +kernel
theorem test_stream_errors : codeAfter (.cenc 2 1) slots = some 4 ∧ codeAfter (.cdecb 2 31) midBlock = some 1 ∧
    codeAfter (.cdec 2 1) { ready with ctr := BitVec.allOnes 64 } = some 5 := by
  decide +kernel
theorem test_stream_new_block : ((nextOf (exec (.cenc 2 1) ready)).map fun t => (t.ctr, t.kpos)) = some (1, 1) := by
  decide +kernel

/-! ### One-step tests: the bus and the step (R61 to R72, R36) -/

theorem test_write_dbuf_little_endian :
    ((nextOf (busWrite 0x44 4 0x07060504#32 State.reset)).map fun t =>
      (t.dbufByte 3, t.dbufByte 4, t.dbufByte 7, t.dbufByte 8)) = some (0, 4, 7, 0) := by
  decide +kernel
theorem test_read_id :
    ((nextOf (busRead 0x2C 4 State.reset)).bind State.rdata) = some 0x4D464131#32 := by
  decide +kernel
theorem test_read_pdinfo :
    ((nextOf (busRead 0x1C 4 slots)).bind State.rdata) = some 0x0000CA05#32 := by
  decide +kernel
theorem test_read_status :
    ((nextOf (busRead 0x04 4 { squeezing with done := true, eq := true })).bind State.rdata) =
      some 0x0000023A#32 := by
  decide +kernel
theorem test_issue_dropped_under_err :
    ((nextOf (busWrite 0x00 4 0x10312000#32
      { State.reset with err := true, errcode := 6, done := true })).map fun t =>
        (t.pending, t.busy, t.done)) = some (none, false, true) := by
  decide +kernel
theorem test_ctrl_reserved_bit_ignored :
    ((nextOf (busWrite 0x0C 4 0x80000002#32 { State.reset with err := true })).map State.err) =
      some true := by
  decide +kernel
theorem test_step_runs_word :
    ((nextOf (step ((two 10 3).withFetchWord 32 0x10312000))).map fun t =>
      (t.reg 3, t.done, t.busy, t.pending)) = some (13, true, false, none) := by
  decide +kernel
theorem test_step_illegal_word :
    ((nextOf (step (State.reset.withFetchWord 32 0x10312001))).map fun t =>
      (t.err, t.errcode, t.done)) = some (true, 6, true) := by
  decide +kernel

/-! ### The XOF companion: the first chunk of the cipher-mode stream (spec/95 2.6, C[0][0]) -/

theorem test_shake256_first_chunk :
    chunkValue (shake256 cipherSeed 48) 0 =
      0x0ff1d60ce1ce4f6d400f454b663dafe168ff4e76155fb933d825b879e055b2eb := by
  decide +kernel
theorem test_kdf_length_before_companion : kdf (.table []) [0#8] = .error .invalidInput := by
  decide +kernel
theorem test_hash_seed_length : (hashSeed 12 5).length = 99 := by decide +kernel

/-! ### Witnesses: states and operands that meet the hypotheses of the obligations -/

/-- A valid hash slot with m = 3, cap = 1, N = 26: rate 2. -/
abbrev rateTwo : Descriptor :=
  { valid := true, mode := .hash, m := 3, cap := 1, n := 26
    mds := padTable 12 [[0x3ffffffffffffffffffffffffffffffffffffffffffffffffffffffffffffff7#256, 0x5555555555555555555555555555555555555555555555555555555555555549#256, 0x5ffffffffffffffffffffffffffffffffffffffffffffffffffffffffffffff2#256],
   [0x5555555555555555555555555555555555555555555555555555555555555549#256, 0x5ffffffffffffffffffffffffffffffffffffffffffffffffffffffffffffff2#256, 0x1999999999999999999999999999999999999999999999999999999999999996#256],
   [0x5ffffffffffffffffffffffffffffffffffffffffffffffffffffffffffffff2#256, 0x1999999999999999999999999999999999999999999999999999999999999996#256, 0x6aaaaaaaaaaaaaaaaaaaaaaaaaaaaaaaaaaaaaaaaaaaaaaaaaaaaaaaaaaaaa9b#256]]
    mdsi := padTable 12 [[0x48#256, 0x7ffffffffffffffffffffffffffffffffffffffffffffffffffffffffffffefd#256, 0xb4#256],
   [0x7ffffffffffffffffffffffffffffffffffffffffffffffffffffffffffffefd#256, 0x384#256, 0x7ffffffffffffffffffffffffffffffffffffffffffffffffffffffffffffd1d#256],
   [0xb4#256, 0x7ffffffffffffffffffffffffffffffffffffffffffffffffffffffffffffd1d#256, 0x258#256]]
    k := Vector.replicate 71 (Vector.replicate 12 0#256) }

/-- Absorbing with rate 2, nothing absorbed yet. -/
abbrev absorbingTwo : State :=
  { slots with pd0 := rateTwo, hph := .absorb, hrate := 2, hdlen := 3 }

/-- A command pending. -/
abbrev pending (w : Word) : State := { slots with pending := some w, busy := true }

theorem hash_valid : ValidDescriptor hashSlot := by
  refine ⟨rfl, ?_, ?_, ?_, ?_, ?_, ?_, ?_, ?_⟩ <;> decide +kernel
theorem rateTwo_valid : ValidDescriptor rateTwo := by
  refine ⟨rfl, ?_, ?_, ?_, ?_, ?_, ?_, ?_, ?_⟩ <;> decide +kernel
theorem cipher_valid : ValidDescriptor cipherSlot := by
  refine ⟨rfl, ?_, ?_, ?_, ?_, ?_, ?_, ?_, ?_⟩ <;> decide +kernel
theorem reset_elements : ElementsInv State.reset := by
  refine ⟨?_, ?_, ?_, ?_⟩ <;> simp [State.reset, Canonical, P]
theorem slots_inv : Inv slots :=
  ⟨reset_elements, .inr hash_valid, .inr cipher_valid, by decide +kernel, by decide +kernel,
   by decide +kernel⟩
theorem absorbing_inv : Inv absorbing :=
  ⟨reset_elements, .inr hash_valid, .inr cipher_valid, by decide +kernel, by decide +kernel,
   by decide +kernel⟩
theorem absorbingTwo_inv : Inv absorbingTwo :=
  ⟨reset_elements, .inr rateTwo_valid, .inr cipher_valid, by decide +kernel, by decide +kernel,
   by decide +kernel⟩
theorem ready_inv : Inv ready :=
  ⟨reset_elements, .inr hash_valid, .inr cipher_valid, by decide +kernel, by decide +kernel,
   by decide +kernel⟩
theorem pending_inv (w : Word) : Inv (pending w) :=
  ⟨reset_elements, .inr hash_valid, .inr cipher_valid, slots_inv.2.2.2.1, slots_inv.2.2.2.2.1,
   ⟨rfl, fun _ => ⟨rfl, rfl⟩, (fun h => nomatch h), fun _ => rfl⟩⟩
theorem midBlock_inv : Inv midBlock := by
  refine ⟨⟨reset_elements.1, reset_elements.2.1, reset_elements.2.2.1, ?_⟩, .inr hash_valid,
    .inr cipher_valid, by decide +kernel, by decide +kernel, by decide +kernel⟩
  have h : midBlock.ks.toList = [1#256, 2#256, 3#256, 4#256, 5#256] := by decide +kernel
  rw [h]; simp [Canonical, P]

theorem witness_DecodeOfEncode : (Instr.pdinitC .pd1 12 4).WellFormed ∧ (Instr.fadd 15 0 7).WellFormed := by
  decide
theorem witness_EncodeOfDecode : decodeWord 0x20404C00#32 = .error .reservedBits ∧
    decodeWord 0x204C0C00#32 = .ok (.pdinitC .pd1 12 4) := by decide
theorem witness_IllegalWordsExactly : ∃ r ∈ opcodeMap, 0x10312000#32 &&& r.mask = r.value := by decide
theorem witness_StepRunsDecodedCommand :
    ({ pending 0x10312000 with script := [.wait] } : State).script = .wait :: [] ∧
    (pending 0x10312000).script = [] ∧ (pending 0x10312000).pending = some 0x10312000#32 ∧
    decodeWord 0x10312000#32 = .ok (.fadd 3 1 2) := by decide +kernel
theorem witness_CommandIssue : State.reset.busy = false ∧ State.reset.err = false ∧
    ({ State.reset with err := true, done := true, errcode := 1 } : State).err = true := by
  decide +kernel
theorem witness_IllegalWordRaises : (pending 0x20C40500).pending = some 0x20C40500#32 ∧
    IllegalWord 0x20C40500#32 ∧ IllegalWord 0x10312001#32 ∧ IllegalWord 0x09000000#32 :=
  ⟨rfl, .inr (by decide), .inl (by decide), .inl (by decide)⟩
theorem witness_RegisterReads : State.reset.busy = false := rfl
theorem witness_WindowReads : slots.busy = false ∧ 11 < 12 ∧ 7 < 8 ∧ 3 < 4 ∧ 23 < 24 :=
  ⟨rfl, by decide⟩
theorem witness_BusWrites : midBlock.busy = false ∧ 11 < 12 ∧ 7 < 8 ∧ 3 < 4 ∧ 23 < 24 :=
  ⟨rfl, by decide⟩
theorem witness_ResetAndClearError :
    State.reset.busy = false ∧ (4#32).toNat = 4 ∧ (1#32 = 1 ∨ 1#32 = 3) := by decide
theorem witness_ResetStateIsZero : (∃ t, runEvent .hardReset midBlock = .next t) ∧
    (∃ t, busWrite 0x0C 4 1 midBlock = .next t) ∧ State.reset = State.reset :=
  ⟨⟨_, rfl⟩, ⟨_, rfl⟩, rfl⟩
theorem witness_BusyAndMalformedAccesses : (pending 0#32).busy = true ∧ (2#32).getLsbD 0 = false ∧
    11 < 12 ∧ 7 < 8 ∧ 3 < 4 ∧ 23 < 24 ∧ 0xFC < 0x100 ∧ 0x02 % 4 ≠ 0 ∧ 2 ≠ 4 := by decide +kernel
theorem witness_FieldLaws : Canonical 0x7fffffffffffffffffffffffffffffffffffffffffffffffffffffffffffffec#256 ∧ 0x7fffffffffffffffffffffffffffffffffffffffffffffffffffffffffffffec#256 ≠ 0#256 ∧ Canonical 0#256 ∧
    Canonical 2#256 := by decide +kernel
theorem witness_MatrixProduct :
    (⟨1, 2, [1#256, 2#256]⟩ : Sys2Proof.Machine.Matrix).cols ≠
      (⟨1, 2, [3#256, 4#256]⟩ : Sys2Proof.Machine.Matrix).rows ∧
    (⟨2, 2, [1#256, 2#256, 3#256, 4#256]⟩ : Sys2Proof.Machine.Matrix).cols =
      (⟨2, 1, [5#256, 6#256]⟩ : Sys2Proof.Machine.Matrix).rows := by decide
theorem witness_MatrixElementwise :
    (⟨1, 2, [1#256, 2#256]⟩ : Sys2Proof.Machine.Matrix).wf = true ∧
    (⟨1, 2, [3#256, 4#256]⟩ : Sys2Proof.Machine.Matrix).wf = true ∧
    (⟨2, 1, [5#256, 6#256]⟩ : Sys2Proof.Machine.Matrix).wf = true ∧ (1 : Nat) ≤ 1 ∧ 1 < 2 := by decide
theorem witness_DetIsDeterminant :
    (⟨1, 2, [1#256, 2#256]⟩ : Sys2Proof.Machine.Matrix).rows ≠ 2 ∧
    ∀ x ∈ (⟨2, 2, [1#256, 2#256, 3#256, 4#256]⟩ : Sys2Proof.Machine.Matrix).data, Canonical x := by
  simp [Canonical, P]
theorem witness_MdsTablesAreInverse : 2 ≤ 2 ∧ 2 ≤ 12 ∧ 12 ≤ 12 := by decide
theorem witness_AddSubtractNegate : Canonical ((two 0x7fffffffffffffffffffffffffffffffffffffffffffffffffffffffffffffec#256 0).reg 1) ∧
    Canonical ((two 0x7fffffffffffffffffffffffffffffffffffffffffffffffffffffffffffffec#256 0).reg 2) := by decide +kernel
theorem witness_Powers : Canonical ((two 2 0x7fffffffffffffffffffffffffffffffffffffffffffffffffffffffffffffec#256).reg 2) := by decide +kernel
theorem witness_Inversion : (two 0 0).reg 1 = 0 ∧ (two 0x7fffffffffffffffffffffffffffffffffffffffffffffffffffffffffffffec#256 0).reg 1 ≠ 0 ∧
    Canonical ((two 0x7fffffffffffffffffffffffffffffffffffffffffffffffffffffffffffffec#256 0).reg 1) := by decide +kernel
theorem witness_LoadBytes : (32#6).toNat ≤ 32 ∧ 32 < (33#6).toNat ∧ (48#6).toNat = 48 ∧
    (47#6).toNat ≠ 48 := by decide

/-- A companion that answers one request answers it with its bytes. -/
theorem oneAnswer_answers (seed : List Byte) (n : Nat) (bs : List Byte) :
    xofAnswer (oneAnswer seed n bs) seed n = some bs := by simp [xofAnswer]

theorem witness_HashConstruction :
    (1#4).toNat < 2 ∧ 12 < (13#4).toNat ∧ (0#4).toNat = 0 ∧ (12#4).toNat ≤ (12#4).toNat ∧
    2 ≤ (2#4).toNat ∧ (12#4).toNat ≤ 12 ∧ 1 ≤ (1#4).toNat ∧ (1#4).toNat < (2#4).toNat ∧
    xofAnswer (.table []) (hashSeed 2 1) (96 * 2 * roundsHash 2 1) = none ∧
    ∃ bs : List Byte,
      xofAnswer (oneAnswer (hashSeed 2 1) (96 * 2 * roundsHash 2 1) bs) (hashSeed 2 1)
        (96 * 2 * roundsHash 2 1) = some bs ∧ bs.length = 96 * 2 * roundsHash 2 1 :=
  ⟨by decide, by decide, by decide, by decide, by decide, by decide, by decide, by decide, rfl,
   List.replicate _ 0#8, oneAnswer_answers _ _ _, List.length_replicate⟩
theorem witness_CipherConstruction :
    16 < (12#4).toNat + (5#4).toNat ∧ (1#4).toNat < 2 ∧ 12 < (13#4).toNat ∧
    (14#4).toNat + (2#4).toNat ≤ 16 ∧ (∀ a ∈ State.reset.x.toList, Canonical a) ∧
    xofAnswer (.table []) cipherSeed 384 = none ∧
    (∃ bs : List Byte, xofAnswer (oneAnswer cipherSeed 384 bs) cipherSeed 384 = some bs ∧
      bs.length = 48 * (2 * 2 + 2 * 2) ∧
      det ⟨2, 2, elems (2 * 2) bs⟩ = .ok 0) ∧
    ∃ bs : List Byte, xofAnswer (oneAnswer cipherSeed 384 bs) cipherSeed 384 = some bs ∧
      bs.length = 48 * (2 * 2 + 2 * 2) ∧ det ⟨2, 2, elems (2 * 2) bs⟩ ≠ .ok 0 :=
  ⟨by decide, by decide, by decide, by decide, reset_elements.1, rfl,
   ⟨List.replicate 384 0#8, oneAnswer_answers _ _ _, List.length_replicate, by decide +kernel⟩,
   ⟨identityBytes 2, oneAnswer_answers _ _ _, by simp [identityBytes], by decide +kernel⟩⟩
theorem witness_DescriptorReads : (slots.slot .pd0).valid = true ∧
    (1#4).toNat < (slots.slot .pd0).m.toNat ∧ (70#7).toNat ≤ 2 * (slots.slot .pd0).n.toNat ∧
    (slots.slot .pd1).valid = true ∧ (4#4).toNat < (slots.slot .pd1).m.toNat ∧
    (20#7).toNat ≤ 2 * (slots.slot .pd1).n.toNat ∧ slots.cfg.pdrdkCipherReadable = true := by
  decide +kernel
theorem witness_VectorMoves : (11#4).toNat < 12 ∧ 12 ≤ (12#4).toNat := by decide

theorem witness_SubkeyLayers : ElementsInv slots ∧ ValidDescriptor (slots.slot .pd0) ∧
    (70#7).toNat ≤ 2 * (slots.slot .pd0).n.toNat := ⟨reset_elements, hash_valid, by decide⟩
theorem witness_SboxLayers : (slots.slot .pd1).valid = true := rfl
theorem witness_MdsLayers : (slots.slot .pd0).valid = true ∧ (slots.slot .pd0).m.toNat ≤ 12 :=
  ⟨rfl, by decide⟩
theorem witness_SubRounds : ElementsInv slots ∧ ValidDescriptor (slots.slot .pd1) ∧
    (19#7).toNat < 2 * (slots.slot .pd1).n.toNat := ⟨reset_elements, cipher_valid, by decide⟩
theorem witness_Permutation : ElementsInv slots ∧ ValidDescriptor (slots.slot .pd1) :=
  ⟨reset_elements, cipher_valid⟩
theorem witness_PermutationInvertible : ElementsInv slots ∧ ValidDescriptor (slots.slot .pd0) :=
  ⟨reset_elements, hash_valid⟩
theorem witness_LayersInvertible : ElementsInv slots ∧ ValidDescriptor (slots.slot .pd0) ∧
    (69#7).toNat < 2 * (slots.slot .pd0).n.toNat ∧ (70#7).toNat ≤ 2 * (slots.slot .pd0).n.toNat :=
  ⟨reset_elements, hash_valid, by decide, by decide⟩
theorem witness_PermIsItsSubRounds : ValidDescriptor (slots.slot .pd1) ∧ slots.err = false :=
  ⟨cipher_valid, rfl⟩
theorem witness_InvalidSlotRaises : (State.reset.slot .pd1).valid = false := rfl
theorem witness_IndexRaises : (slots.slot .pd0).valid = true ∧
    (slots.slot .pd0).m.toNat ≤ (2#4).toNat ∧ 2 * (slots.slot .pd0).n.toNat < (71#7).toNat ∧
    1 ≤ (slots.slot .pd0).n.toNat ∧ 2 * (slots.slot .pd0).n.toNat - 1 < (70#7).toNat ∧
    (slots.slot .pd0).mode = .hash ∧ 12 ≤ (12#4).toNat ∧ squeezing.hph = .squeeze ∧
    squeezing.hdlen.toNat ≤ (2#4).toNat := by decide +kernel
theorem witness_HashStart : (State.reset.slot .pd0).valid = false ∧ (slots.slot .pd1).valid = true ∧
    (slots.slot .pd1).mode = .cipher ∧ (slots.slot .pd0).mode = .hash ∧
    (slots.slot .pd0).m.toNat < (3#4).toNat ∧ ValidDescriptor (slots.slot .pd0) ∧
    (2#4).toNat ≤ (slots.slot .pd0).m.toNat :=
  ⟨rfl, rfl, rfl, rfl, by decide, hash_valid, by decide⟩
theorem witness_AbsorbAndFinish : slots.hph ≠ .absorb ∧ Inv absorbing ∧ absorbing.hph = .absorb ∧
    absorbing.hpos.toNat + 1 = absorbing.hrate.toNat ∧ Inv absorbingTwo ∧
    absorbingTwo.hph = .absorb ∧ absorbingTwo.hpos.toNat + 1 < absorbingTwo.hrate.toNat :=
  ⟨by decide, absorbing_inv, rfl, by decide, absorbingTwo_inv, rfl, by decide⟩
theorem witness_Squeeze : squeezing.hph = .squeeze ∧ (1#4).toNat < squeezing.hdlen.toNat ∧
    squeezing.hdlen.toNat ≤ (2#4).toNat ∧ slots.hph ≠ .squeeze := by decide +kernel
theorem witness_StreamingIsDigest : Inv slots ∧ slots.err = false ∧ (slots.slot .pd0).valid = true ∧
    (slots.slot .pd0).mode = .hash ∧ (2#4).toNat ≤ (slots.slot .pd0).m.toNat ∧ (1#4).toNat < (2#4).toNat :=
  ⟨slots_inv, rfl, rfl, rfl, by decide, by decide⟩

/-- A companion that answers the two requests of `CKEY`, with C the identity. -/
abbrev keyXof : Xof :=
  .table [⟨hashSeed 12 5, 9216, List.replicate 9216 0#8⟩, ⟨cipherSeed, 1680, identityBytes 5⟩]

/-- A companion of two answers, to requests of different sizes, answers each. -/
theorem twoAnswers (s1 s2 : List Byte) (n1 n2 : Nat) (b1 b2 : List Byte) (h : n1 ≠ n2) :
    xofAnswer (.table [⟨s1, n1, b1⟩, ⟨s2, n2, b2⟩]) s1 n1 = some b1 ∧
    xofAnswer (.table [⟨s1, n1, b1⟩, ⟨s2, n2, b2⟩]) s2 n2 = some b2 := by
  simp [xofAnswer, h]
theorem keyXof_answers : xofAnswer keyXof (hashSeed 12 5) 9216 = some (List.replicate 9216 0#8) ∧
    xofAnswer keyXof cipherSeed 1680 = some (identityBytes 5) :=
  twoAnswers _ _ _ _ _ _ (by decide)
theorem identity_length : (identityBytes 5).length = 1680 := by simp [identityBytes]
theorem identity_det : det ⟨5, 5, elems 25 (identityBytes 5)⟩ ≠ .ok 0 := by decide +kernel

theorem witness_KeyLoad : (31#6).toNat ≠ 32 ∧ xofAnswer (.table []) (hashSeed 12 5) 9216 = none ∧
    xofAnswer (.table []) cipherSeed 1680 = none ∧
    (∃ b1 : List Byte, xofAnswer (oneAnswer cipherSeed 1680 b1) cipherSeed 1680 = some b1 ∧
      b1.length = 1680 ∧ det ⟨5, 5, elems 25 b1⟩ = .ok 0) ∧
    ∃ b0 b1 : List Byte, xofAnswer keyXof (hashSeed 12 5) 9216 = some b0 ∧ b0.length = 9216 ∧
      xofAnswer keyXof cipherSeed 1680 = some b1 ∧ b1.length = 1680 ∧
      det ⟨5, 5, elems 25 b1⟩ ≠ .ok 0 :=
  ⟨by decide, rfl, rfl,
   ⟨List.replicate 1680 0#8, oneAnswer_answers _ _ _, List.length_replicate, by decide +kernel⟩,
   ⟨_, _, keyXof_answers.1, List.length_replicate, keyXof_answers.2, identity_length, identity_det⟩⟩
/-- With that companion `cipher_new` answers a descriptor. -/
theorem cipherNew_keyXof (secret : List Byte) (h : secret.length = 32) : ∃ d, cipherNew keyXof secret = .ok d := by
  have h0 : xofRequest keyXof (hashSeed 12 5) (WIDE_BYTES * (2 * 12 * roundsHash 12 5)) =
      .ok (List.replicate 9216 0#8) := by
    rw [show WIDE_BYTES * (2 * 12 * roundsHash 12 5) = 9216 by decide +kernel, xofRequest,
      keyXof_answers.1]
    simp only [List.length_replicate, if_true]
  have h1 : xofRequest keyXof cipherSeed (WIDE_BYTES * (5 * 5 + 2 * 5)) = .ok (identityBytes 5) := by
    rw [show WIDE_BYTES * (5 * 5 + 2 * 5) = 1680 by decide, xofRequest, keyXof_answers.2]
    simp only [identity_length, if_true]
  have h2 : detRows 5 1#256 (columns 5 5 (elems (5 * 5 + 2 * 5) (identityBytes 5))) ≠ 0#256 := by
    decide +kernel
  obtain ⟨z, h3, -⟩ := secretElem_ok h
  simp only [cipherNew, kdf, h3, buildHash, rawConstantsHash, h0, buildCipher, rawConstantsCipher, BLOCK,
    h1, h2, if_false]
  exact ⟨_, rfl⟩
theorem witness_KeyLoadIsCipherNew :
    (∃ d, cipherNew keyXof (State.reset.dbuf.toList.take 32) = .ok d) ∧
    cipherNew (.table []) (State.reset.dbuf.toList.take 32) = .error .operationError ∧
    ([0#8] : List Byte).length ≠ 32 :=
  ⟨cipherNew_keyXof _ (by decide), rfl, by decide⟩
theorem witness_NonceLoad : slots.pd1.valid = true ∧ slots.pd1.mode = .cipher ∧
    slots.pd1.m.toNat = 5 ∧ (16#6).toNat = 16 ∧ (17#6).toNat ≠ 16 ∧ State.reset.pd1.valid = false ∧
    ({ cipherSlot with m := 4 } : Descriptor).m.toNat ≠ 5 := by decide +kernel
theorem witness_StreamCommands : slots.crdy = false ∧ midBlock.crdy = true ∧ (31#6).toNat ≠ 32 ∧
    ({ ready with ctr := BitVec.allOnes 64 } : State).ctr.toNat = 2 ^ 64 - 1 ∧ ready.kpos.toNat = 5 ∧
    Inv ready ∧ ready.crdy = true ∧ (ready.kpos.toNat = 5 → ready.ctr.toNat < 2 ^ 64 - 1) ∧
    Inv midBlock ∧ (midBlock.kpos.toNat = 5 → midBlock.ctr.toNat < 2 ^ 64 - 1) :=
  ⟨rfl, rfl, by decide, by decide, by decide, ready_inv, rfl, by decide, midBlock_inv, by decide⟩
theorem witness_StreamPosition : slots.pd1.valid = true ∧ slots.pd1.mode = .cipher ∧
    slots.pd1.m.toNat = 5 ∧ Inv ready ∧ AtStreamPosition ready 0 ∧ 0 < 5 * (2 ^ 64 - 1) :=
  ⟨rfl, rfl, rfl, ready_inv, ⟨rfl, rfl, rfl⟩, by decide⟩
theorem witness_CipherRoundTrip : ValidDescriptor cipherSlot ∧ cipherSlot.m.toNat = 5 ∧
    Canonical 7#256 ∧ [0x7fffffffffffffffffffffffffffffffffffffffffffffffffffffffffffffec#256].length ≤ 5 * (2 ^ 64 - 1) ∧
    ∀ a ∈ [0x7fffffffffffffffffffffffffffffffffffffffffffffffffffffffffffffec#256], Canonical a :=
  ⟨cipher_valid, rfl, by decide +kernel, by decide, by simp [Canonical, P]⟩
theorem witness_StepKeepsInv : Inv (pending 0x28000000#32) ∧
    ∃ t, step (pending 0x28000000#32) = .next t := ⟨pending_inv _, ⟨_, rfl⟩⟩
theorem witness_ErrorsArePrecise : (two 0 3).err = false ∧ (∃ t, exec (.finv 3 1) (two 0 3) = .next t) ∧
    ∃ t, exec (.fadd 3 1 2) (two 0 3) = .next t := ⟨rfl, ⟨_, rfl⟩, ⟨_, rfl⟩⟩
theorem witness_OwnersOfState : ∃ t, exec (.feq 1 2) slots = .next t := ⟨_, rfl⟩
theorem witness_BusCannotSeeSecrets : ∃ t, busRead 0x80 4 midBlock = .next t := ⟨_, rfl⟩

end Sys2Proof.Tests
end

section
/-! The laws of BigInt256 (spec/00_scope.md R16, spec/40_bigint.md R124 to R129): the masked select, the
ordering, single bits, the bit length and the 32-byte serialisation. -/

namespace Sys2Proof.Machine

/-! ### Select and ordering -/

/-- R16: the masked form chooses as `select` does. -/
theorem maskedSelect_eq_ite (c : Bool) (u v : BigInt256) :
    maskedSelect c u v = if c then u else v := by
  cases c with
  | false =>
    change (0#256 &&& u) ||| (~~~0#256 &&& v) = v
    rw [BitVec.zero_and, BitVec.not_zero, BitVec.allOnes_and, BitVec.zero_or]
  | true =>
    change (BitVec.allOnes 256 &&& u) ||| (~~~BitVec.allOnes 256 &&& v) = u
    rw [BitVec.not_allOnes, BitVec.allOnes_and, BitVec.zero_and, BitVec.or_zero]

@[simp] theorem bigLt_iff (a b : BigInt256) : bigLt a b = true ↔ a.toNat < b.toNat := by
  simp [bigLt, subWithBorrow]

@[simp] theorem bigGt_iff (a b : BigInt256) : bigGt a b = true ↔ b.toNat < a.toNat :=
  bigLt_iff b a

@[simp] theorem bigLe_iff (a b : BigInt256) : bigLe a b = true ↔ a.toNat ≤ b.toNat := by
  rw [bigLe, Bool.not_eq_true', ← Bool.not_eq_true, bigLt_iff, Nat.not_lt]

@[simp] theorem bigGe_iff (a b : BigInt256) : bigGe a b = true ↔ b.toNat ≤ a.toNat :=
  bigLe_iff b a

/-! ### Single bits -/

/-- The word that `setBit` and `clearBit` combine with has the one bit i. -/
theorem bit_oneShifted (i j : Fin 256) : bit (1#256 <<< i.val) j = decide (i = j) := by
  rw [bit, ← BitVec.twoPow_eq, BitVec.getElem_twoPow]
  exact decide_eq_decide.mpr (eq_comm.trans Fin.ext_iff.symm)

theorem bit_setBit (a : BigInt256) (i j : Fin 256) :
    bit (setBit a i) j = (decide (i = j) || bit a j) := by
  calc bit (setBit a i) j
      = (bit a j || bit (1#256 <<< i.val) j) := BitVec.getElem_or j.isLt
    _ = (decide (i = j) || bit a j) := by rw [bit_oneShifted, Bool.or_comm]

theorem bit_clearBit (a : BigInt256) (i j : Fin 256) :
    bit (clearBit a i) j = (!decide (i = j) && bit a j) := by
  calc bit (clearBit a i) j
      = (bit a j && bit (bigNot (1#256 <<< i.val)) j) := BitVec.getElem_and j.isLt
    _ = (bit a j && !bit (1#256 <<< i.val) j) :=
        congrArg (bit a j && ·) (BitVec.getElem_not j.isLt)
    _ = (!decide (i = j) && bit a j) := by rw [bit_oneShifted, Bool.and_comm]

/-! ### Bit length -/

/-- With fuel enough for v, `halvings` counts the least n with v < 2^n. -/
theorem halvings_le_iff {fuel v : Nat} (hv : v < 2 ^ fuel) (n : Nat) :
    halvings fuel v ≤ n ↔ v < 2 ^ n := by
  induction fuel generalizing v n with
  | zero =>
    obtain rfl : v = 0 := by omega
    simp [halvings]
  | succ fuel ih =>
    by_cases h0 : v = 0
    · simp [halvings, h0]
    · rw [halvings, if_neg h0]
      cases n with
      | zero => omega
      | succ n =>
        have hhalf : v / 2 < 2 ^ fuel := by omega
        have hstep := ih hhalf n
        omega

/-- R128: `bit_length(a)` is at most n exactly for the n with a < 2^n. -/
theorem bitLength_le_iff (a : BigInt256) (n : Nat) : bitLength a ≤ n ↔ a.toNat < 2 ^ n :=
  halvings_le_iff a.isLt n

/-! ### 32-byte serialisation -/

/-- A list of bytes is the serialisation of its value over its own length: the other direction of
`leNat_leBytes`. -/
theorem leBytes_leNat (bs : List Byte) : leBytes bs.length (leNat bs) = bs := by
  induction bs with
  | nil => rfl
  | cons b bs ih =>
    have hb := b.isLt
    have hlow : BitVec.ofNat 8 (b.toNat + 256 * leNat bs) = b := by
      apply BitVec.eq_of_toNat_eq
      rw [BitVec.toNat_ofNat]
      omega
    have hrest : (b.toNat + 256 * leNat bs) / 256 = leNat bs := by omega
    rw [List.length_cons, leNat, leBytes, hlow, hrest, ih]

theorem toLeBytes32_length (a : BigInt256) : (toLeBytes32 a).length = 32 :=
  leBytes_length 32 a.toNat

theorem fromLeBytes32_toNat {bs : List Byte} (h : bs.length = 32) :
    (fromLeBytes32 bs).toNat = leNat bs := by
  have hlt := leNat_lt bs
  rw [h] at hlt
  rw [fromLeBytes32, BitVec.toNat_ofNat, Nat.mod_eq_of_lt (by omega)]

/-- R129. -/
theorem fromLeBytes32_toLeBytes32 (a : BigInt256) : fromLeBytes32 (toLeBytes32 a) = a := by
  have ha := a.isLt
  apply BitVec.eq_of_toNat_eq
  rw [fromLeBytes32_toNat (toLeBytes32_length a), toLeBytes32, leNat_leBytes,
    Nat.mod_eq_of_lt (by omega)]

/-- R129. -/
theorem toLeBytes32_fromLeBytes32 {bs : List Byte} (h : bs.length = 32) :
    toLeBytes32 (fromLeBytes32 bs) = bs := by
  rw [toLeBytes32, fromLeBytes32_toNat h, ← h, leBytes_leNat]

/-- Settles O15, from one lemma per operation of BigInt256. -/
theorem bigIntSelectBitsAndBytes : Obligations.BigIntSelectBitsAndBytes :=
  ⟨maskedSelect_eq_ite,
    fun a b => ⟨bigLt_iff a b, bigLe_iff a b, bigGt_iff a b, bigGe_iff a b⟩,
    fun a i j => ⟨bit_setBit a i j, bit_clearBit a i j⟩,
    fun a => ⟨(bitLength_le_iff a _).mp le_rfl, fun n => (bitLength_le_iff a n).mpr⟩,
    fun a => ⟨toLeBytes32_length a, fromLeBytes32_toLeBytes32 a⟩,
    fun _ => toLeBytes32_fromLeBytes32⟩

end Sys2Proof.Machine
end

section
/-! Which operations give canonical elements (spec/10_state.md R22, spec/41_field.md R150), and what the
entries of tables and the lanes of a vector are. -/

namespace Sys2Proof.Machine

/-! ### Field procedures -/

theorem P_pos : 0 < P := by decide

theorem canonical_of_toNat_mod {a : Elem} {n : Nat} (h : a.toNat = n % P) : Canonical a := by
  rw [Canonical, h]
  exact Nat.mod_lt n P_pos

theorem canonical_zero : Canonical 0#256 := P_pos

theorem canonical_one : Canonical 1#256 := one_lt

theorem fadd_canonical {a b : Elem} (ha : Canonical a) (hb : Canonical b) : Canonical (fadd a b) :=
  canonical_of_toNat_mod (fadd_toNat ha hb)

theorem fsub_canonical {a b : Elem} (ha : Canonical a) (hb : Canonical b) : Canonical (fsub a b) :=
  canonical_of_toNat_mod (fsub_toNat ha hb)

theorem fneg_canonical {a : Elem} (ha : Canonical a) : Canonical (fneg a) :=
  canonical_of_toNat_mod (fneg_toNat ha)

theorem fmul_canonical (a b : Elem) : Canonical (fmul a b) := reduce512_lt _

theorem fsqr_canonical (a : Elem) : Canonical (fsqr a) := reduce512_lt _

theorem pow5_canonical (a : Elem) : Canonical (pow5 a) := fmul_canonical _ _

theorem inversionChain_canonical (a : Elem) : Canonical (inversionChain a) := fmul_canonical _ _

theorem pow_canonical (a : Elem) (e : BigInt256) : Canonical (pow a e) :=
  ladder_lt _ _ _ _ one_lt (.inl (by decide))

theorem powU64_canonical (a : Elem) (e : BitVec 64) : Canonical (powU64 a e) :=
  ladder_lt _ _ _ _ one_lt (.inl (by decide))

theorem sbox_canonical (e : SboxExp) (a : Elem) : Canonical (sbox e a) := by
  cases e with
  | alpha => exact pow5_canonical a
  | alphaInv => exact pow_canonical a ALPHA_INV

theorem wideReduce_canonical {bs : List Byte} (h : bs.length ≤ 48) : Canonical (wideReduce bs) :=
  canonical_of_toNat_mod (wideReduce_toNat h)

/-- What the reducing constructor answers is the bytes' value modulo p. -/
theorem fromBytesLe_toNat {bs : List Byte} {a : Elem} (h : fromBytesLe bs = .ok a) :
    a.toNat = leNat bs % P := by
  have hlen : bs.length ≤ 32 := by
    by_contra hlong
    rw [fromBytesLe, if_pos (Nat.lt_of_not_le hlong)] at h
    cases h
  obtain ⟨b, hb, hval⟩ := fromBytesLe_ok hlen
  rw [h] at hb
  cases hb
  exact hval

theorem fromBytesLe_canonical {bs : List Byte} {a : Elem} (h : fromBytesLe bs = .ok a) :
    Canonical a := canonical_of_toNat_mod (fromBytesLe_toNat h)

theorem finv_canonical {a b : Elem} (h : finv a = .ok b) : Canonical b := by
  unfold finv at h
  split at h
  · cases h
  · cases h
    exact inversionChain_canonical a

/-! ### Lists of elements -/

/-- Every element of the list is canonical. -/
abbrev CanonicalList (l : List Elem) : Prop := ∀ a ∈ l, Canonical a

theorem CanonicalList.getD {l : List Elem} (h : CanonicalList l) (i : Nat) :
    Canonical (l.getD i 0#256) := by
  rw [List.getD_eq_getElem?_getD]
  cases hi : l[i]? with
  | none => exact canonical_zero
  | some a => exact h a (List.mem_of_getElem? hi)

theorem CanonicalList.take {l : List Elem} (h : CanonicalList l) (n : Nat) :
    CanonicalList (l.take n) := fun a ha => h a (List.mem_of_mem_take ha)

theorem CanonicalList.drop {l : List Elem} (h : CanonicalList l) (n : Nat) :
    CanonicalList (l.drop n) := fun a ha => h a (List.mem_of_mem_drop ha)

theorem CanonicalList.append {l l' : List Elem} (h : CanonicalList l) (h' : CanonicalList l') :
    CanonicalList (l ++ l') := fun a ha => (List.mem_append.mp ha).elim (h a) (h' a)

theorem canonicalList_replicate (n : Nat) : CanonicalList (List.replicate n 0#256) :=
  fun _ ha => List.eq_of_mem_replicate ha ▸ canonical_zero

theorem canonicalList_map {f : Elem → Elem} (hf : ∀ a, Canonical (f a)) (l : List Elem) :
    CanonicalList (l.map f) := by
  rw [CanonicalList, List.forall_mem_map]
  exact fun a _ => hf a

theorem CanonicalList.zipWith {f : Elem → Elem → Elem} {l l' : List Elem}
    (hf : ∀ {a b}, Canonical a → Canonical b → Canonical (f a b)) (h : CanonicalList l)
    (h' : CanonicalList l') : CanonicalList (List.zipWith f l l') := by
  induction l generalizing l' with
  | nil => simp [CanonicalList]
  | cons a l ih =>
    cases l' with
    | nil => simp [CanonicalList]
    | cons b l' =>
      rw [CanonicalList, List.forall_mem_cons] at h h'
      rw [List.zipWith_cons_cons, CanonicalList, List.forall_mem_cons]
      exact ⟨hf h.1 h'.1, ih h.2 h'.2⟩

theorem CanonicalList.vadd {u v : Column} (hu : CanonicalList u) (hv : CanonicalList v) :
    CanonicalList (vadd u v) := hu.zipWith fadd_canonical hv

theorem CanonicalList.vsub {u v : Column} (hu : CanonicalList u) (hv : CanonicalList v) :
    CanonicalList (vsub u v) := hu.zipWith fsub_canonical hv

theorem foldl_fadd_canonical {l : List Elem} (hl : CanonicalList l) {acc : Elem}
    (hacc : Canonical acc) : Canonical (l.foldl fadd acc) := by
  induction l generalizing acc with
  | nil => exact hacc
  | cons a l ih =>
    rw [CanonicalList, List.forall_mem_cons] at hl
    exact ih hl.2 (fadd_canonical hacc hl.1)

theorem dot_canonical (row v : List Elem) : Canonical (dot row v) := by
  refine foldl_fadd_canonical ?_ canonical_zero
  rw [← List.map_uncurry_zip_eq_zipWith, CanonicalList, List.forall_mem_map]
  exact fun p _ => fmul_canonical p.1 p.2

theorem matvec_canonical (m : Rows) (v : Column) : CanonicalList (matvec m v) := by
  rw [CanonicalList, matvec, List.forall_mem_map]
  exact fun row _ => dot_canonical row v

theorem elems_canonical (n : Nat) (bs : List Byte) : CanonicalList (elems n bs) := by
  induction n generalizing bs with
  | zero => simp [CanonicalList, elems]
  | succ n ih =>
    rw [elems, CanonicalList, List.forall_mem_cons]
    exact ⟨wideReduce_canonical (List.length_take_le 48 bs), ih _⟩

/-- The columns cut from a canonical list are canonical, n of them, of at most m elements. -/
theorem mem_columns {m n : Nat} {l : List Elem} (hl : CanonicalList l) {col : Column}
    (h : col ∈ columns m n l) : CanonicalList col ∧ col.length ≤ m := by
  induction n generalizing l with
  | zero => simp [columns] at h
  | succ n ih =>
    rw [columns, List.mem_cons] at h
    rcases h with rfl | h
    · exact ⟨hl.take m, List.length_take_le m l⟩
    · exact ih (hl.drop m) h

theorem columns_length (m n : Nat) (l : List Elem) : (columns m n l).length = n := by
  induction n generalizing l with
  | zero => rfl
  | succ n ih => rw [columns, List.length_cons, ih]

/-! ### Vectors and tables -/

theorem forall_mem_toList_iff {n : Nat} {p : Elem → Prop} {u : Vector Elem n} :
    (∀ a ∈ u.toList, p a) ↔ ∀ j : Fin n, p (u.get j) := by
  constructor
  · intro h j
    refine h _ ?_
    rw [Vector.mem_toList_iff]
    exact Vector.getElem_mem j.isLt
  · intro h a ha
    obtain ⟨i, hi, rfl⟩ := Vector.getElem_of_mem (Vector.mem_toList_iff.mp ha)
    exact h ⟨i, hi⟩

theorem set_canonical {n : Nat} {u : Vector Elem n} (hu : CanonicalList u.toList) {i : Nat}
    (hi : i < n) {v : Elem} (hv : Canonical v) : CanonicalList (u.set i v hi).toList := by
  intro a ha
  rw [Vector.mem_toList_iff] at ha
  rcases Vector.mem_or_eq_of_mem_set ha with h | rfl
  · exact hu a (Vector.mem_toList_iff.mpr h)
  · exact hv

theorem replicate_canonical (n : Nat) :
    CanonicalList (Vector.replicate n (0#256 : Elem)).toList := by
  rw [Vector.toList_replicate]
  exact canonicalList_replicate n

theorem ofFn_canonical {n : Nat} {f : Fin n → Elem} (hf : ∀ j, Canonical (f j)) :
    CanonicalList (Vector.ofFn f).toList := by
  rw [Vector.toList_ofFn]
  intro a ha
  obtain ⟨j, rfl⟩ := List.mem_ofFn.mp ha
  exact hf j

theorem laneWritten_canonical {u : Vector Elem 12} (hu : CanonicalList u.toList) (i : Nat) {v : Elem}
    (hv : Canonical v) : CanonicalList (laneWritten u i v).toList := by
  rw [CanonicalList, forall_mem_toList_iff] at hu ⊢
  intro j
  rw [laneWritten_get]
  split
  · exact hv
  · exact hu j

theorem lanesWritten_canonical {u : Vector Elem 12} (hu : CanonicalList u.toList) {v : Column}
    (hv : CanonicalList v) : CanonicalList (lanesWritten u v).toList := by
  rw [CanonicalList, forall_mem_toList_iff] at hu ⊢
  intro j
  rw [lanesWritten_get, List.getD_eq_getElem?_getD]
  cases hj : v[j.val]? with
  | none => exact hu j
  | some a => exact hv a (List.mem_of_getElem? hj)

/-- Within its bounds an entry of a padded table is the entry of the rows, or 0 beyond them. -/
theorem tableEntry_padTable {n r c : Nat} (hr : r < n) (hc : c < 12) (rows : Rows) :
    tableEntry (padTable n rows) r c = (rows.getD r []).getD c 0#256 := by
  simp [tableEntry, padTable, List.getD_eq_getElem?_getD, hr, hc]

theorem tableEntry_padTable_canonical {n r c : Nat} (hr : r < n) (hc : c < 12) {rows : Rows}
    (h : ∀ row ∈ rows, CanonicalList row) : Canonical (tableEntry (padTable n rows) r c) := by
  rw [tableEntry_padTable hr hc]
  refine CanonicalList.getD ?_ c
  rw [List.getD_eq_getElem?_getD]
  cases hrow : rows[r]? with
  | none => simp [CanonicalList]
  | some row => exact h row (List.mem_of_getElem? hrow)

/-- Every row of a table is made of its entries. -/
theorem canonicalList_row {n : Nat} {t : Vector (Vector Elem 12) n}
    (h : ∀ r < n, ∀ c < 12, Canonical (tableEntry t r c)) {row : Vector Elem 12}
    (hrow : row ∈ t.toList) : CanonicalList row.toList := by
  obtain ⟨r, hr, rfl⟩ := Vector.getElem_of_mem (Vector.mem_toList_iff.mp hrow)
  rw [CanonicalList, forall_mem_toList_iff]
  intro c
  have hentry : tableEntry t r c.val = (t[r]).get c := by
    simp [tableEntry, List.getD_eq_getElem?_getD, hr, Vector.get]
  exact hentry ▸ h r hr c.val c.isLt

end Sys2Proof.Machine
end

section
/-! The Cauchy matrix of the integers and its inverse over a field (spec/43_permutation.md R228, R229).
The rows of the product are Lagrange interpolations at the nodes 1 to m, evaluated at the negated nodes. -/

namespace Sys2Proof.Machine

section CauchyInverse

variable {F ι : Type*} [Field F]

theorem prod_neg_sub (t : Finset ι) (v : ι → F) (x : F) :
    ∏ k ∈ t, (-x - v k) = (-1) ^ t.card * ∏ k ∈ t, (x + v k) := by
  rw [← Finset.prod_const, ← Finset.prod_mul_distrib]
  exact Finset.prod_congr rfl fun k _ => by ring

theorem prod_neg_add (t : Finset ι) (v : ι → F) (x : F) :
    ∏ k ∈ t, (-x + v k) = (-1) ^ t.card * ∏ k ∈ t, (x - v k) := by
  rw [← Finset.prod_const, ← Finset.prod_mul_distrib]
  exact Finset.prod_congr rfl fun k _ => by ring

variable [DecidableEq ι] {s : Finset ι} {v : ι → F} {i c r : ι}

/-- Entry (i, j) of R229 for nodes `v` over a field. -/
def cauchyInverseValue (s : Finset ι) (v : ι → F) (i j : ι) : F :=
  (∏ k ∈ s, (-v i - v k)) * (∏ k ∈ s, (v j + v k)) *
    ((∏ k ∈ s.erase j, (v j - v k)) * (∏ k ∈ s.erase i, (-v i + v k)) * (-v i - v j))⁻¹

/-- The factor of `cauchyInverseValue` that depends on the column alone. -/
def cauchyColumnFactor (s : Finset ι) (v : ι → F) (c : ι) : F :=
  (∏ k ∈ s, (v c + v k)) * (∏ k ∈ s.erase c, (v c - v k))⁻¹

/-- The polynomial with the roots −v k, k ≠ c. -/
theorem eval_nodal_neg_erase (x : F) :
    (Lagrange.nodal (s.erase c) (fun k => -v k)).eval x = ∏ k ∈ s.erase c, (x + v k) := by
  simp [Lagrange.eval_nodal]

/-- Down a column, the inverse is a barycentric weight times a polynomial of degree m − 1. -/
theorem cauchyInverseValue_eq_weight (hadd : ∀ i ∈ s, ∀ j ∈ s, v i + v j ≠ 0) (hi : i ∈ s)
    (hc : c ∈ s) : cauchyInverseValue s v i c =
      cauchyColumnFactor s v c * (Lagrange.nodalWeight s v i * ∏ k ∈ s.erase c, (v i + v k)) := by
  have hne : -v i - v c ≠ 0 := fun h => hadd i hi c hc (by linear_combination -h)
  have hcard : (s.erase i).card = (s.erase c).card := by
    rw [Finset.card_erase_of_mem hi, Finset.card_erase_of_mem hc]
  have hsign : ((-1 : F) ^ (s.erase c).card) * ((-1) ^ (s.erase c).card)⁻¹ = 1 :=
    mul_inv_cancel₀ (pow_ne_zero _ (neg_ne_zero.mpr one_ne_zero))
  have hnum : ∏ k ∈ s, (-v i - v k) =
      (-v i - v c) * ((-1) ^ (s.erase c).card * ∏ k ∈ s.erase c, (v i + v k)) := by
    rw [← prod_neg_sub, Finset.mul_prod_erase s (fun k => -v i - v k) hc]
  rw [cauchyInverseValue, cauchyColumnFactor, Lagrange.nodalWeight, Finset.prod_inv_distrib,
    prod_neg_add, hnum, hcard]
  simp only [mul_inv]
  linear_combination ((∏ k ∈ s.erase c, (v i + v k)) * (∏ k ∈ s, (v c + v k)) *
    (∏ k ∈ s.erase c, (v c - v k))⁻¹ * (∏ k ∈ s.erase i, (v i - v k))⁻¹) *
    ((-v i - v c) * (-v i - v c)⁻¹ * hsign + mul_inv_cancel₀ hne)

/-- At the negated node of its own column the polynomial cancels the column's factor. -/
theorem cauchyColumnFactor_mul_eval (hv : Set.InjOn v s) (hc : c ∈ s) :
    cauchyColumnFactor s v c * (∏ k ∈ s.erase c, (-v c + v k)) = -∏ k ∈ s, (-v c - v k) := by
  have hdiff : ∏ k ∈ s.erase c, (v c - v k) ≠ 0 := Finset.prod_ne_zero_iff.mpr fun k hk =>
    sub_ne_zero.mpr fun h => (Finset.ne_of_mem_erase hk) (hv (Finset.mem_of_mem_erase hk) hc h.symm)
  rw [cauchyColumnFactor, prod_neg_add, prod_neg_sub, ← Finset.card_erase_add_one hc, pow_succ]
  linear_combination ((-1) ^ (s.erase c).card * ∏ k ∈ s, (v c + v k)) * inv_mul_cancel₀ hdiff

/-- The Cauchy matrix 1/(v r + v j) times `cauchyInverseValue` is the identity. -/
theorem sum_cauchy_mul_inverseValue (hv : Set.InjOn v s) (hadd : ∀ i ∈ s, ∀ j ∈ s, v i + v j ≠ 0)
    (hr : r ∈ s) (hc : c ∈ s) :
    ∑ j ∈ s, (v r + v j)⁻¹ * cauchyInverseValue s v j c = if r = c then 1 else 0 := by
  have hnode : ∀ j ∈ s, -v r ≠ v j := fun j hj h => hadd r hr j hj (by linear_combination -h)
  have hroots : ∏ k ∈ s, (-v r - v k) ≠ 0 := Finset.prod_ne_zero_iff.mpr fun k hk =>
    sub_ne_zero.mpr (hnode k hk)
  have hdeg : (Lagrange.nodal (s.erase c) fun k => -v k).degree < s.card := by
    rw [Lagrange.degree_nodal]
    exact_mod_cast Finset.card_erase_lt_of_mem hc
  have hinterp := congrArg (Polynomial.eval (-v r)) (Lagrange.eq_interpolate hv hdeg)
  rw [Lagrange.eval_interpolate_not_at_node _ hnode] at hinterp
  simp only [eval_nodal_neg_erase] at hinterp
  rw [Lagrange.eval_nodal] at hinterp
  have hsum : ∑ j ∈ s, (v r + v j)⁻¹ * cauchyInverseValue s v j c = -cauchyColumnFactor s v c *
      ∑ j ∈ s, Lagrange.nodalWeight s v j * (-v r - v j)⁻¹ * ∏ k ∈ s.erase c, (v j + v k) := by
    rw [Finset.mul_sum]
    refine Finset.sum_congr rfl fun j hj => ?_
    rw [cauchyInverseValue_eq_weight hadd hj hc, show -v r - v j = -(v r + v j) by ring, inv_neg]
    ring
  rw [hsum]
  split
  case isTrue h =>
    subst h
    have hown := cauchyColumnFactor_mul_eval hv hc
    rw [hinterp] at hown
    refine mul_left_cancel₀ hroots ?_
    linear_combination -hown
  case isFalse h =>
    have hzero : ∏ k ∈ s.erase c, (-v r + v k) = 0 :=
      Finset.prod_eq_zero (Finset.mem_erase.mpr ⟨h, hr⟩) (neg_add_cancel _)
    rw [hzero] at hinterp
    rw [(mul_eq_zero.mp hinterp.symm).resolve_left hroots, mul_zero]

end CauchyInverse

end Sys2Proof.Machine
end

section
/-! Elements as members of the field of integers modulo p (spec/41_field.md R150), and with that the MDS
tables: entries 1/(r + c + 2) and the inverse matrix (spec/43_permutation.md R228, R229). -/

namespace Sys2Proof.Machine

/-! ### Elements modulo p -/

/-- The residue class of an element. -/
def fieldVal (a : Elem) : ZMod P := (a.toNat : ZMod P)

theorem fieldVal_of_toNat_mod {a : Elem} {n : Nat} (h : a.toNat = n % P) :
    fieldVal a = (n : ZMod P) := by
  rw [fieldVal, h, ZMod.natCast_mod]

@[simp] theorem fieldVal_fmul (a b : Elem) : fieldVal (fmul a b) = fieldVal a * fieldVal b := by
  rw [fieldVal_of_toNat_mod (fmul_toNat a b), Nat.cast_mul, fieldVal, fieldVal]

@[simp] theorem fieldVal_one : fieldVal 1#256 = 1 := by simp [fieldVal]

theorem fieldVal_fneg {a : Elem} (ha : Canonical a) : fieldVal (fneg a) = -fieldVal a := by
  rw [fieldVal_of_toNat_mod (fneg_toNat ha), Nat.cast_sub (Nat.le_of_lt ha), ZMod.natCast_self,
    zero_sub, fieldVal]

theorem elemOfNat_toNat {n : Nat} (h : n < 2 ^ 256) : (elemOfNat n).toNat = n % P := by
  rw [elemOfNat, reduce256_toNat, BitVec.toNat_ofNat, Nat.mod_eq_of_lt h]

theorem fieldVal_elemOfNat {n : Nat} (h : n < 2 ^ 256) : fieldVal (elemOfNat n) = (n : ZMod P) :=
  fieldVal_of_toNat_mod (elemOfNat_toNat h)

theorem fieldVal_elemOfInt {z : Int} (h : z.natAbs < 2 ^ 256) :
    fieldVal (elemOfInt z) = (z : ZMod P) := by
  have habs : fieldVal (elemOfNat z.natAbs) = (z.natAbs : ZMod P) := fieldVal_elemOfNat h
  have hcan : Canonical (elemOfNat z.natAbs) := by
    rw [Canonical, elemOfNat_toNat h]
    exact Nat.mod_lt _ P_pos
  unfold elemOfInt
  split
  case isTrue hneg =>
    rw [fieldVal_fneg hcan, habs, ← Int.cast_natCast, ← Int.cast_neg]
    congr 1
    omega
  case isFalse hpos =>
    rw [habs, ← Int.cast_natCast]
    congr 1
    omega

/-- Fermat: the inversion chain yields the inverse modulo p. -/
theorem fieldVal_inversionChain [Fact P.Prime] (a : Elem) :
    fieldVal (inversionChain a) = (fieldVal a)⁻¹ := by
  rw [fieldVal_of_toNat_mod (inversionChain_toNat a), Nat.cast_pow, ← fieldVal]
  by_cases h : fieldVal a = 0
  · rw [h, inv_zero, zero_pow (by decide)]
  · refine eq_inv_of_mul_eq_one_left ?_
    rw [← pow_succ]
    exact ZMod.pow_card_sub_one_eq_one h

/-! ### The inverse Cauchy matrix (R229) -/

/-- A product loop multiplies the integers of its list. -/
theorem fieldVal_foldl_fmul {f : Nat → Int} {l : List Nat} (hl : ∀ k ∈ l, (f k).natAbs < 2 ^ 256)
    (acc : Elem) : fieldVal (l.foldl (fun acc k => fmul acc (elemOfInt (f k))) acc) =
      fieldVal acc * (l.map fun k => (f k : ZMod P)).prod := by
  induction l generalizing acc with
  | nil => simp
  | cons k l ih =>
    rw [List.foldl_cons, ih fun k' hk' => hl k' (List.mem_cons_of_mem k hk'), fieldVal_fmul,
      fieldVal_elemOfInt (hl k List.mem_cons_self), List.map_cons, List.prod_cons, mul_assoc]

/-- The indices `productExcept` runs over. -/
theorem filter_range'_toFinset (m : Nat) (skip : Nat → Bool) :
    ((List.range' 1 m).filter fun k => !skip k).toFinset =
      (Finset.Icc 1 m).filter fun k => skip k = false := by
  ext k
  have hrange : 1 ≤ k ∧ k < 1 + m ↔ 1 ≤ k ∧ k ≤ m := by omega
  simp [hrange]

/-- `productExcept` multiplies the integers f k over the k in 1..m that `skip` does not name. -/
theorem fieldVal_productExcept {m : Nat} {skip : Nat → Bool} {f : Nat → Int}
    (hf : ∀ k ∈ Finset.Icc 1 m, (f k).natAbs < 2 ^ 256) :
    fieldVal (productExcept m skip f) =
      ∏ k ∈ (Finset.Icc 1 m).filter (fun k => skip k = false), (f k : ZMod P) := by
  have hbound : ∀ k ∈ (List.range' 1 m).filter (fun k => !skip k), (f k).natAbs < 2 ^ 256 := by
    intro k hk
    rw [← List.mem_toFinset, filter_range'_toFinset] at hk
    exact hf k (Finset.mem_of_mem_filter k hk)
  rw [productExcept, fieldVal_foldl_fmul hbound, fieldVal_one, one_mul, ← filter_range'_toFinset,
    List.prod_toFinset _ (List.Nodup.filter _ List.nodup_range')]

/-- The product over all of 1..m. -/
theorem fieldVal_productAll {m : Nat} {f : Nat → Int}
    (hf : ∀ k ∈ Finset.Icc 1 m, (f k).natAbs < 2 ^ 256) :
    fieldVal (productExcept m (fun _ => false) f) = ∏ k ∈ Finset.Icc 1 m, (f k : ZMod P) := by
  rw [fieldVal_productExcept hf, Finset.filter_true_of_mem fun _ _ => rfl]

/-- The product over 1..m without j. -/
theorem fieldVal_productErase {m j : Nat} {f : Nat → Int}
    (hf : ∀ k ∈ Finset.Icc 1 m, (f k).natAbs < 2 ^ 256) :
    fieldVal (productExcept m (fun k => k == j) f) =
      ∏ k ∈ (Finset.Icc 1 m).erase j, (f k : ZMod P) := by
  rw [fieldVal_productExcept hf]
  refine Finset.prod_congr ?_ fun _ _ => rfl
  ext k
  simp [and_comm]

/-- An entry of the model's inverse matrix is the entry over the field, the nodes being 1 to m. -/
theorem fieldVal_cauchyInverseEntry [Fact P.Prime] {m i j : Nat} (hm : m ≤ 12) (hi : i ≤ m)
    (hj : j ≤ m) : fieldVal (cauchyInverseEntry m i j) =
      cauchyInverseValue (Finset.Icc 1 m) (fun k => (k : ZMod P)) i j := by
  have small : ∀ z : Int, z.natAbs ≤ 24 → z.natAbs < 2 ^ 256 := fun z hz =>
    lt_of_le_of_lt hz (by decide)
  unfold cauchyInverseEntry
  simp only [fieldVal_fmul, fieldVal_inversionChain]
  rw [fieldVal_productAll, fieldVal_productAll, fieldVal_productErase, fieldVal_productErase,
    fieldVal_elemOfInt (small _ (by omega))]
  · push_cast
    rfl
  all_goals
    intro k hk
    rw [Finset.mem_Icc] at hk
    exact small _ (by omega)

/-! ### The MDS tables (R27) -/

/-- The entries of a padded square matrix given by a function. -/
theorem tableEntry_padTable_square {m r c : Nat} (f : Nat → Nat → Elem) (hr : r < 12) (hc : c < 12) :
    tableEntry (padTable 12 ((List.range m).map fun r => (List.range m).map fun c => f r c)) r c =
      if r < m ∧ c < m then f r c else 0#256 := by
  rw [tableEntry_padTable hr hc]
  simp only [List.getD_eq_getElem?_getD, List.getElem?_map]
  by_cases hrm : r < m
  · by_cases hcm : c < m <;> simp [hrm, hcm]
  · simp [hrm]

theorem tableEntry_cauchy {m r c : Nat} (hr : r < 12) (hc : c < 12) :
    tableEntry (padTable 12 (cauchy m)) r c =
      if r < m ∧ c < m then inversionChain (elemOfNat (r + c + 2)) else 0#256 :=
  tableEntry_padTable_square (fun r c => inversionChain (elemOfNat (r + c + 2))) hr hc

theorem tableEntry_cauchyInverse {m r c : Nat} (hr : r < 12) (hc : c < 12) :
    tableEntry (padTable 12 (cauchyInverse m)) r c =
      if r < m ∧ c < m then cauchyInverseEntry m (r + 1) (c + 1) else 0#256 :=
  tableEntry_padTable_square (fun r c => cauchyInverseEntry m (r + 1) (c + 1)) hr hc

theorem natCast_ne_zero_of_lt {n : Nat} (h0 : 0 < n) (h : n < P) : (n : ZMod P) ≠ 0 := by
  rw [Ne, ZMod.natCast_eq_zero_iff]
  exact Nat.not_dvd_of_pos_of_lt h0 h

theorem mod_eq_of_natCast_eq {n k : Nat} (hk : k < P) (h : (n : ZMod P) = (k : ZMod P)) :
    n % P = k := by
  rw [(ZMod.natCast_eq_natCast_iff' n k P).mp h, Nat.mod_eq_of_lt hk]

theorem fieldVal_tableEntry_cauchy [Fact P.Prime] {m r c : Nat} (hm : m ≤ 12) (hr : r < m)
    (hc : c < m) : fieldVal (tableEntry (padTable 12 (cauchy m)) r c) =
      (((r + 1 : Nat) : ZMod P) + ((c + 1 : Nat) : ZMod P))⁻¹ := by
  rw [tableEntry_cauchy (by omega) (by omega), if_pos ⟨hr, hc⟩, fieldVal_inversionChain,
    fieldVal_elemOfNat (by omega), ← Nat.cast_add]
  congr 2
  omega

theorem fieldVal_tableEntry_cauchyInverse [Fact P.Prime] {m r c : Nat} (hm : m ≤ 12) (hr : r < m)
    (hc : c < m) : fieldVal (tableEntry (padTable 12 (cauchyInverse m)) r c) =
      cauchyInverseValue (Finset.Icc 1 m) (fun k => (k : ZMod P)) (r + 1) (c + 1) := by
  rw [tableEntry_cauchyInverse (by omega) (by omega), if_pos ⟨hr, hc⟩,
    fieldVal_cauchyInverseEntry hm hr hc]

/-- R228: the entry (r, c) is 1/(r + c + 2). -/
theorem cauchy_mul_eq_one [Fact P.Prime] {m r c : Nat} (hm : m ≤ 12) (hr : r < m) (hc : c < m) :
    (tableEntry (padTable 12 (cauchy m)) r c).toNat * (r + c + 2) % P = 1 := by
  have hsmall : r + 1 + (c + 1) < P := lt_of_lt_of_le (by omega : _ < 25) (by decide)
  refine mod_eq_of_natCast_eq (by decide) ?_
  rw [Nat.cast_mul, ← fieldVal, fieldVal_tableEntry_cauchy hm hr hc, ← Nat.cast_add,
    show r + c + 2 = r + 1 + (c + 1) by omega, Nat.cast_one]
  exact inv_mul_cancel₀ (natCast_ne_zero_of_lt (by omega) hsmall)

/-- R229: row r of the matrix times column c of its inverse. -/
theorem rowTimes_cauchy_inverse [Fact P.Prime] {m r c : Nat} (hm : m ≤ 12) (hr : r < m)
    (hc : c < m) : rowTimes m (padTable 12 (cauchy m)) r
      (fun j => (tableEntry (padTable 12 (cauchyInverse m)) j c).toNat) = if r = c then 1 else 0 := by
  have h24 : 24 < P := by decide
  have hinj : Set.InjOn (fun k : Nat => (k : ZMod P)) (Finset.Icc 1 m) := by
    intro i hi j hj h
    rw [Finset.coe_Icc, Set.mem_Icc] at hi hj
    rw [← mod_eq_of_natCast_eq (by omega) h, Nat.mod_eq_of_lt (by omega)]
  have hadd : ∀ i ∈ Finset.Icc 1 m, ∀ j ∈ Finset.Icc 1 m, (i : ZMod P) + (j : ZMod P) ≠ 0 := by
    intro i hi j hj
    rw [Finset.mem_Icc] at hi hj
    rw [← Nat.cast_add]
    exact natCast_ne_zero_of_lt (by omega) (by omega)
  have hnode : ∀ i < m, i + 1 ∈ Finset.Icc 1 m := fun i hi => Finset.mem_Icc.mpr ⟨by omega, hi⟩
  have hproduct := sum_cauchy_mul_inverseValue hinj hadd (hnode r hr) (hnode c hc)
  rw [← Finset.Ico_add_one_right_eq_Icc, Finset.sum_Ico_eq_sum_range, Nat.add_sub_cancel,
    Finset.Ico_add_one_right_eq_Icc] at hproduct
  refine mod_eq_of_natCast_eq (by split <;> decide) ?_
  calc ((∑ j ∈ Finset.range m, (tableEntry (padTable 12 (cauchy m)) r j).toNat *
          (tableEntry (padTable 12 (cauchyInverse m)) j c).toNat : Nat) : ZMod P)
      = ∑ j ∈ Finset.range m, (((r + 1 : Nat) : ZMod P) + ((1 + j : Nat) : ZMod P))⁻¹ *
          cauchyInverseValue (Finset.Icc 1 m) (fun k => (k : ZMod P)) (1 + j) (c + 1) := by
        rw [Nat.cast_sum]
        refine Finset.sum_congr rfl fun j hj => ?_
        have hjm := Finset.mem_range.mp hj
        rw [Nat.cast_mul, ← fieldVal, ← fieldVal, fieldVal_tableEntry_cauchy hm hr hjm,
          fieldVal_tableEntry_cauchyInverse hm hjm hc, Nat.add_comm j 1]
    _ = ((if r = c then 1 else 0 : Nat) : ZMod P) := by
        rw [hproduct, Nat.cast_ite, Nat.cast_one, Nat.cast_zero]
        exact if_congr Nat.succ_inj rfl rfl

theorem cauchyInverseEntry_canonical (m i j : Nat) : Canonical (cauchyInverseEntry m i j) :=
  fmul_canonical _ _

/-- R27: what a construction puts into `MDS` and `MDSI`. -/
theorem mdsPair_cauchy {m : Nat} (hm : m ≤ 12) :
    MdsPair m (padTable 12 (cauchy m)) (padTable 12 (cauchyInverse m)) := by
  have : Fact P.Prime := ⟨Sys2Proof.Laws.P_prime⟩
  refine ⟨fun r hr c hc => cauchy_mul_eq_one hm hr hc,
    fun r hr c hc => rowTimes_cauchy_inverse hm hr hc, fun r hr c hc => ?_, fun r hr c hc hout => ?_⟩
  · rw [tableEntry_cauchy hr hc, tableEntry_cauchyInverse hr hc]
    split
    · exact ⟨inversionChain_canonical _, cauchyInverseEntry_canonical _ _ _⟩
    · exact ⟨canonical_zero, canonical_zero⟩
  · have houtside : ¬(r < m ∧ c < m) := by omega
    rw [tableEntry_cauchy hr hc, tableEntry_cauchyInverse hr hc, if_neg houtside, if_neg houtside]
    exact ⟨rfl, rfl⟩

end Sys2Proof.Machine
end

section
/-! The permutation keeps elements canonical, and a construction leaves a valid descriptor
(spec/43_permutation.md R220, R240 to R242; spec/10_state.md R22, R27). -/

namespace Sys2Proof.Machine

/-! ### The permutation on canonical columns -/

theorem subRound_canonical (mode : Mode) (mds : Rows) (r : Nat) {k : Column} (s : Column)
    (hk : CanonicalList k) : CanonicalList (subRound mode mds r k s) :=
  CanonicalList.vadd (matvec_canonical _ _) hk

theorem subRoundInverse_canonical (mode : Mode) (mdsi : Rows) (r : Nat) (k u : Column) :
    CanonicalList (subRoundInverse mode mdsi r k u) :=
  canonicalList_map (sbox_canonical _) _

theorem statesFrom_length (mode : Mode) (mds : Rows) (r : Nat) (ks : List Column) (s : Column) :
    (statesFrom mode mds r ks s).length = ks.length + 1 := by
  induction ks generalizing r s with
  | nil => rfl
  | cons k ks ih => rw [statesFrom, List.length_cons, ih, List.length_cons]

/-- A bound on columns that the sub-rounds keep: canonical elements, at most m of them. -/
abbrev ColumnWithin (m : Nat) (v : Column) : Prop := CanonicalList v ∧ v.length ≤ m

theorem vadd_within {m : Nat} {u v : Column} (hu : CanonicalList u) (hv : ColumnWithin m v) :
    ColumnWithin m (vadd u v) :=
  ⟨hu.vadd hv.1, by
    rw [vadd, List.length_zipWith]
    exact (Nat.min_le_right _ _).trans hv.2⟩

theorem statesFrom_within {m r : Nat} {mode : Mode} {mds : Rows} {ks : List Column} {s : Column}
    (hks : ∀ k ∈ ks, ColumnWithin m k) (hs : ColumnWithin m s) :
    ∀ v ∈ statesFrom mode mds r ks s, ColumnWithin m v := by
  induction ks generalizing r s with
  | nil => simpa [statesFrom] using hs
  | cons k ks ih =>
    rw [List.forall_mem_cons] at hks
    rw [statesFrom, List.forall_mem_cons]
    exact ⟨hs, ih hks.2 (vadd_within (matvec_canonical _ _) hks.1)⟩

/-- Every state of the permutation is canonical and no longer than its subkeys. -/
theorem permStates_within {m : Nat} {mode : Mode} {mds : Rows} {ks : List Column} {s : Column}
    (hks : ∀ k ∈ ks, ColumnWithin m k) (hs : CanonicalList s) :
    ∀ v ∈ permStates mode mds ks s, ColumnWithin m v := by
  cases ks with
  | nil => simp [permStates]
  | cons k ks =>
    rw [List.forall_mem_cons] at hks
    exact statesFrom_within hks.2 (vadd_within hs hks.1)

theorem permStates_length (mode : Mode) (mds : Rows) (ks : List Column) (s : Column) :
    (permStates mode mds ks s).length = ks.length := by
  cases ks with
  | nil => rfl
  | cons k ks => rw [permStates, statesFrom_length, List.length_cons]

theorem undoFrom_canonical (mode : Mode) (mdsi : Rows) (r : Nat) (ks : List Column) {u : Column}
    (hu : CanonicalList u) : CanonicalList (undoFrom mode mdsi r ks u) := by
  cases ks with
  | nil => exact hu
  | cons k ks => exact subRoundInverse_canonical _ _ _ _ _

/-- The subkey table holds canonical elements only (R27). -/
abbrev SubkeysCanonical (d : Descriptor) : Prop :=
  ∀ row ∈ d.k.toList, CanonicalList row.toList

theorem ValidDescriptor.subkeysCanonical {d : Descriptor} (h : ValidDescriptor d) :
    SubkeysCanonical d := by
  obtain ⟨-, -, -, -, -, -, -, hsubkeys, -⟩ := h
  exact fun row => canonicalList_row fun t ht i hi => (hsubkeys t ht i hi).1

theorem SubkeysCanonical.subkeys_within {d : Descriptor} (h : SubkeysCanonical d) :
    ∀ k ∈ d.subkeys, ColumnWithin d.m.toNat k := by
  rw [Descriptor.subkeys, List.forall_mem_map]
  exact fun row hrow =>
    ⟨(h row (List.mem_of_mem_take hrow)).take _, List.length_take_le _ _⟩

theorem SubkeysCanonical.subkey {d : Descriptor} (h : SubkeysCanonical d) (t : Nat) :
    CanonicalList (d.subkey t) := by
  rw [Descriptor.subkey, List.getD_eq_getElem?_getD]
  refine CanonicalList.take ?_ _
  cases hrow : d.k.toList[t]? with
  | none => exact replicate_canonical 12
  | some row => exact h row (List.mem_of_getElem? hrow)

theorem permute_canonical {d : Descriptor} (hd : SubkeysCanonical d) {s : Column}
    (hs : CanonicalList s) : CanonicalList (permute d s) := by
  rw [permute, List.getLastD_eq_getLast?]
  cases hlast : (permStates d.mode (tableRows d.m.toNat d.mds) d.subkeys s).getLast? with
  | none => exact hs
  | some v => exact (permStates_within hd.subkeys_within hs v (List.mem_of_getLast? hlast)).1

theorem permuteInverse_canonical {d : Descriptor} (hd : SubkeysCanonical d) {s : Column}
    (hs : CanonicalList s) : CanonicalList (permuteInverse d s) := by
  have hkeys := hd.subkeys_within
  unfold permuteInverse
  split
  case h_1 => exact hs
  case h_2 k0 ks hcons =>
    rw [hcons, List.forall_mem_cons] at hkeys
    exact (undoFrom_canonical _ _ _ _ hs).vsub hkeys.1.1

theorem keystreamBlock_canonical {d : Descriptor} (hd : SubkeysCanonical d) {nonce : Elem}
    (hn : Canonical nonce) (j : Nat) : CanonicalList (keystreamBlock d nonce j) := by
  have hindex : Canonical (BitVec.ofNat 256 (j % P)) := by
    have hlt := Nat.mod_lt j P_pos
    rw [Canonical, BitVec.toNat_ofNat, Nat.mod_eq_of_lt (lt_trans hlt (by decide))]
    exact hlt
  refine permute_canonical hd ?_
  simp only [counterBlock, CanonicalList, List.forall_mem_cons]
  exact ⟨hn, hindex, canonical_zero, canonical_zero, canonical_zero, by simp⟩

/-! ### The key derivation -/

theorem spongePad_canonical (rate : Nat) {msg : List Elem} (h : CanonicalList msg) :
    CanonicalList (spongePad rate msg) :=
  (h.append (by simpa [CanonicalList] using canonical_one)).append (canonicalList_replicate _)

theorem absorbBlock_canonical {d : Descriptor} (hd : SubkeysCanonical d) (cap : Nat) {s block : Column}
    (hs : CanonicalList s) (hb : CanonicalList block) : CanonicalList (absorbBlock d cap s block) :=
  permute_canonical hd (hs.vadd (hb.append (canonicalList_replicate cap)))

theorem foldl_absorbBlock_canonical {d : Descriptor} (hd : SubkeysCanonical d) (cap : Nat)
    {blocks : List Column} (hb : ∀ b ∈ blocks, CanonicalList b) {s : Column} (hs : CanonicalList s) :
    CanonicalList (blocks.foldl (absorbBlock d cap) s) := by
  induction blocks generalizing s with
  | nil => exact hs
  | cons b blocks ih =>
    rw [List.forall_mem_cons] at hb
    exact ih hb.2 (absorbBlock_canonical hd cap hs hb.1)

theorem digest_canonical {d : Descriptor} (hd : SubkeysCanonical d) (rate cap dlen : Nat)
    {msg : List Elem} (h : CanonicalList msg) : CanonicalList (digest d rate cap dlen msg) :=
  CanonicalList.take (foldl_absorbBlock_canonical hd cap
    (fun _ hb => (mem_columns (spongePad_canonical rate h) hb).1) (canonicalList_replicate _)) dlen

theorem kdfKey_canonical {d : Descriptor} (hd : SubkeysCanonical d) {z : Elem} (hz : Canonical z) :
    CanonicalList (kdfKey d z) := by
  refine digest_canonical hd 7 5 5 ?_
  simp only [CanonicalList, List.forall_mem_cons]
  exact ⟨canonical_one, hz, by decide, by simp⟩

/-! ### Raw constants -/

theorem recurrence_within {m n : Nat} {c : Rows} {cc r : Column} (hcc : ColumnWithin m cc)
    (hr : ColumnWithin m r) : ∀ v ∈ recurrence c cc n r, ColumnWithin m v := by
  induction n generalizing r with
  | zero => simpa [recurrence] using hr
  | succ n ih =>
    rw [recurrence, List.forall_mem_cons]
    exact ⟨hr, ih (vadd_within (matvec_canonical c r) hcc)⟩

theorem recurrence_length (c : Rows) (cc : Column) (n : Nat) (r : Column) :
    (recurrence c cc n r).length = n + 1 := by
  induction n generalizing r with
  | zero => rfl
  | succ n ih => rw [recurrence, List.length_cons, ih]

/-- R233, R234: the raw constants of the cipher mode are 2N + 1 columns of m canonical elements. -/
theorem rawConstantsCipher_within {xof : Xof} {m n : Nat} {raw : List Column}
    (h : rawConstantsCipher xof m n = .ok raw) :
    raw.length = 2 * n + 1 ∧ ∀ v ∈ raw, ColumnWithin m v := by
  unfold rawConstantsCipher at h
  split at h
  case h_1 => cases h
  case h_2 bs hbs =>
    dsimp only at h
    split at h
    · cases h
    · cases h
      have hslice : ∀ i, ColumnWithin m (((elems (m * m + 2 * m) bs).drop i).take m) := fun i =>
        ⟨((elems_canonical _ bs).drop i).take m, List.length_take_le _ _⟩
      exact ⟨recurrence_length _ _ _ _, recurrence_within (hslice _) (hslice _)⟩

/-- R235: the raw constants of the hash mode are the zero column, then 2N columns of m elements. -/
theorem rawConstantsHash_within {xof : Xof} {m cap n : Nat} {raw : List Column}
    (h : rawConstantsHash xof m cap n = .ok raw) :
    raw.length = 2 * n + 1 ∧ (∀ v ∈ raw, ColumnWithin m v) ∧
      raw.getD 0 [] = List.replicate m 0#256 := by
  unfold rawConstantsHash at h
  split at h
  case h_1 => cases h
  case h_2 bs hbs =>
    cases h
    refine ⟨by rw [List.length_cons, columns_length], ?_, rfl⟩
    rw [List.forall_mem_cons]
    exact ⟨⟨canonicalList_replicate m, by rw [List.length_replicate]⟩,
      fun v hv => mem_columns (elems_canonical _ _) hv⟩

/-! ### Round counts (R226) -/

/-- The round counts of every hash configuration of the unit fit the subkey table (R226). -/
theorem roundsHash_le {m cap : Nat} (h2 : 2 ≤ m) (h12 : m ≤ 12) (h1 : 1 ≤ cap) (hcap : cap < m) :
    roundsHash m cap ≤ 35 := by
  have table : ∀ m ∈ List.range' 2 11, ∀ cap ∈ List.range' 1 (m - 1), roundsHash m cap ≤ 35 := by
    decide +kernel
  exact table m (by rw [List.mem_range'_1]; omega) cap (by rw [List.mem_range'_1]; omega)

theorem roundsCipher_le {m : Nat} (h2 : 2 ≤ m) (h12 : m ≤ 12) : roundsCipher m ≤ 35 := by
  have table : ∀ m ∈ List.range' 2 11, roundsCipher m ≤ 35 := by decide +kernel
  exact table m (by rw [List.mem_range'_1]; omega)

/-! ### The constructions (R220) -/

/-- Beyond its rows and their length a padded table is 0. -/
theorem tableEntry_padTable_eq_zero {n m t i : Nat} (ht : t < n) (hi : i < 12) {rows : Rows}
    (hrows : ∀ row ∈ rows, row.length ≤ m) (hout : rows.length ≤ t ∨ m ≤ i) :
    tableEntry (padTable n rows) t i = 0#256 := by
  rw [tableEntry_padTable ht hi, List.getD_eq_getElem?_getD, List.getD_eq_getElem?_getD]
  cases hrow : rows[t]? with
  | none => simp
  | some row =>
    obtain ⟨hlt, hget⟩ := List.getElem?_eq_some_iff.mp hrow
    have hlen := hrows row (hget ▸ List.getElem_mem hlt)
    rw [Option.getD_some, List.getElem?_eq_none (by omega)]
    rfl

/-- What `makeDescriptor` makes of parameters in range and 2N + 1 canonical subkeys is valid. -/
theorem makeDescriptor_valid {mode : Mode} {m cap n : Nat} {k : List Column} (h2 : 2 ≤ m)
    (h12 : m ≤ 12) (hcapm : cap < m) (hn : n ≤ 35)
    (hhash : mode = .hash →
      1 ≤ cap ∧ n = roundsHash m cap ∧ k.getD 0 [] = List.replicate m 0#256)
    (hcipher : mode = .cipher → cap = 0 ∧ n = roundsCipher m)
    (hlen : k.length = 2 * n + 1) (hk : ∀ v ∈ k, ColumnWithin m v) :
    ValidDescriptor (makeDescriptor mode m cap n k) := by
  have em : (makeDescriptor mode m cap n k).m.toNat = m := by
    simp only [makeDescriptor, BitVec.toNat_ofNat]; omega
  have ecap : (makeDescriptor mode m cap n k).cap.toNat = cap := by
    simp only [makeDescriptor, BitVec.toNat_ofNat]; omega
  have en : (makeDescriptor mode m cap n k).n.toNat = n := by
    simp only [makeDescriptor, BitVec.toNat_ofNat]; omega
  have emode : (makeDescriptor mode m cap n k).mode = mode := rfl
  have ek : (makeDescriptor mode m cap n k).k = padTable 71 k := rfl
  unfold ValidDescriptor CapFits RoundsFit SubkeysPadded
  rw [em, ecap, en, emode, ek]
  refine ⟨rfl, h2, h12, ⟨fun h => ⟨(hhash h).1, hcapm⟩, fun h => (hcipher h).1⟩,
    ⟨fun h => (hhash h).2.1, fun h => (hcipher h).2⟩, hn, mdsPair_cauchy h12,
    fun t ht i hi => ⟨?_, fun hout => ?_⟩, fun h i hi => ?_⟩
  · exact tableEntry_padTable_canonical ht hi fun row hrow => (hk row hrow).1
  · exact tableEntry_padTable_eq_zero ht hi (fun row hrow => (hk row hrow).2) (by omega)
  · obtain ⟨-, -, hzero⟩ := hhash h
    rw [tableEntry_padTable (by decide) hi, hzero, List.getD_eq_getElem?_getD]
    exact List.getElem?_getD_replicate_default_eq ..

theorem buildHash_valid {xof : Xof} {m cap : Nat} {d : Descriptor} (h2 : 2 ≤ m) (h12 : m ≤ 12)
    (h1 : 1 ≤ cap) (hcap : cap < m) (h : buildHash xof m cap = .ok d) : ValidDescriptor d := by
  unfold buildHash at h
  split at h
  case h_1 => cases h
  case h_2 raw hraw =>
    cases h
    obtain ⟨hlen, hwithin, hzero⟩ := rawConstantsHash_within hraw
    exact makeDescriptor_valid h2 h12 hcap (roundsHash_le h2 h12 h1 hcap)
      (fun _ => ⟨h1, rfl, hzero⟩) nofun hlen hwithin

theorem buildCipher_valid {xof : Xof} {m : Nat} {key : Column} {d : Descriptor} (h2 : 2 ≤ m)
    (h12 : m ≤ 12) (hkey : CanonicalList key) (h : buildCipher xof m key = .ok d) :
    ValidDescriptor d := by
  unfold buildCipher at h
  split at h
  case h_1 => cases h
  case h_2 raw hraw =>
    cases h
    obtain ⟨hlen, hwithin⟩ := rawConstantsCipher_within hraw
    exact makeDescriptor_valid h2 h12 (by omega) (roundsCipher_le h2 h12) nofun
      (fun _ => ⟨rfl, rfl⟩) ((permStates_length _ _ _ _).trans hlen) (permStates_within hwithin hkey)

end Sys2Proof.Machine
end

section
/-! What each command can do to the state, once for all 48: `Effect` lists the ways a rule assigns, and
`exec_completed` says that every completion step is the recorded error or one of them. -/

namespace Sys2Proof.Machine

/-! ### What the invariant gives -/

theorem slotInv_valid {d : Descriptor} (h : SlotInv d) (hv : d.valid = true) : ValidDescriptor d := by
  rcases h with rfl | h
  · cases hv
  · exact h

theorem Inv.slot {s : State} (h : Inv s) (k : Slot) : SlotInv (s.slot k) := by
  obtain ⟨-, h0, h1, -⟩ := h
  cases k with
  | pd0 => exact h0
  | pd1 => exact h1

theorem Inv.validSlot {s : State} (h : Inv s) {k : Slot} (hv : (s.slot k).valid = true) :
    ValidDescriptor (s.slot k) := slotInv_valid (h.slot k) hv

theorem Inv.reg {s : State} (h : Inv s) (r : Reg) : Canonical (s.reg r) := by
  obtain ⟨⟨hx, -⟩, -⟩ := h
  exact forall_mem_toList_iff.mp hx r.toFin

theorem Inv.svec {s : State} (h : Inv s) : CanonicalList s.svec.toList := by
  obtain ⟨⟨-, hsvec, -⟩, -⟩ := h
  exact hsvec

theorem Inv.lane {s : State} (h : Inv s) (i : Nat) : Canonical (s.lane i) :=
  CanonicalList.getD h.svec i

theorem Inv.keyRegs {s : State} (h : Inv s) (kb : Reg) (m : Nat) : CanonicalList (s.keyRegs kb m) := by
  obtain ⟨⟨hx, -⟩, -⟩ := h
  exact (CanonicalList.drop hx _).take m

theorem Inv.cipherReady {s : State} (h : Inv s) (hr : s.crdy = true) :
    ValidDescriptor s.pd1 ∧ Canonical s.nonce ∧ CanonicalList s.ks.toList ∧ s.kpos.toNat ≤ 5 := by
  obtain ⟨⟨-, -, hnonce, hks⟩, -, h1, -, hcipher, -⟩ := h
  rw [CipherInv, if_pos hr] at hcipher
  obtain ⟨hvalid, -, -, -, -, hkpos⟩ := hcipher
  exact ⟨slotInv_valid h1 hvalid, hnonce, hks, hkpos⟩

theorem absorbAt_canonical {s : State} (hs : CanonicalList s.svec.toList) {a : Elem}
    (ha : Canonical a) : CanonicalList (s.absorbAt a).svec.toList :=
  laneWritten_canonical hs _ (fadd_canonical (hs.getD _) ha)

theorem permuteSponge_canonical {s : State} (hd : SubkeysCanonical (s.slot s.hslot))
    (hs : CanonicalList s.svec.toList) : CanonicalList s.permuteSponge.svec.toList :=
  lanesWritten_canonical hs (permute_canonical hd (hs.take _))

/-! ### The effects -/

/-- The commands that replace slot k. -/
inductive ReplacesSlot (k : Slot) : Instr → Prop
  | hash {m cap : BitVec 4} : ReplacesSlot k (.pdinitH k m cap)
  | cipher {m : BitVec 4} {kb : Reg} : ReplacesSlot k (.pdinitC k m kb)
  | clear : ReplacesSlot k (.pdclr k)

/-- The commands that write a register with the help of the keystream. -/
inductive StreamsToReg : Instr → Prop
  | enc {rd ra : Reg} : StreamsToReg (.cenc rd ra)
  | dec {rd ra : Reg} : StreamsToReg (.cdec rd ra)
  | decBytes {rd : Reg} {len : BitVec 6} : StreamsToReg (.cdecb rd len)

/-- `Effect s i u`: the rule of i can leave u in the state s.  A constructor names the pieces of state
that are assigned, and of their values what the invariant needs. -/
inductive Effect (s : State) : Instr → State → Prop
  | nothing {i : Instr} : Effect s i s
  | reg {i : Instr} {rd : Reg} {v : Elem} (hv : Inv s → Canonical v) : Effect s i (s.setReg rd v)
  | out {ra : Reg} {v : Elem} : Effect s (.fst ra) (s.setDout v)
  | flag {ra rb : Reg} {b : Bool} : Effect s (.feq ra rb) (s.setEq b)
  | lanes {i : Instr} {u : Vector Elem 12} (hu : Inv s → CanonicalList u.toList) :
      Effect s i { s with svec := u }
  | slot {i : Instr} {k : Slot} {d : Descriptor} (hi : ReplacesSlot k i) (hd : Inv s → SlotInv d) :
      Effect s i (s.installSlot k d)
  | sponge {i : Instr} {u : Vector Elem 12} {k : Slot} {rate dlen pos : BitVec 4} {ph : Phase}
      (hu : Inv s → CanonicalList u.toList)
      (hsp : Inv s → SpongeInv
        { s with svec := u, hslot := k, hrate := rate, hdlen := dlen, hpos := pos, hph := ph }) :
      Effect s i
        { s with svec := u, hslot := k, hrate := rate, hdlen := dlen, hpos := pos, hph := ph }
  | key {len : BitVec 6} {d0 d1 : Descriptor} (h0 : ValidDescriptor d0) (h1 : ValidDescriptor d1) :
      Effect s (.ckey len) { (((s.setSlot .pd0 d0).setSlot .pd1 d1).clearLanes.resetSponge.resetCipher)
        with dbuf := Vector.replicate 48 0#8 }
  | nonce {len : BitVec 6} {n : Elem} (hslot : s.usable = .ok ()) (hn : n.toNat < 2 ^ 128) :
      Effect s (.cnonce len)
        { s with nonce := n, ctr := 0, ks := Vector.replicate 5 0#256, kpos := 5, crdy := true }
  | streamReg {i : Instr} {rd : Reg} {v : Elem} {r : KeystreamStep} (hi : StreamsToReg i)
      (hr : s.crdy = true) (hks : s.nextKs = .ok r) (hv : Inv s → Canonical v) :
      Effect s i (r.state.setReg rd v)
  | streamOut {ra : Reg} {v : Elem} {r : KeystreamStep} (hr : s.crdy = true)
      (hks : s.nextKs = .ok r) : Effect s (.cencb ra) (r.state.setDout v)

/-- The completion of i in s leaves t: the error alone, or an effect of i. -/
def Completed (s : State) (i : Instr) (t : State) : Prop :=
  (∃ e, t = afterError s e) ∨ ∃ u, Effect s i u ∧ t = after u

section Completion

variable {s t : State} {i : Instr}

theorem completed_of_rule {r : Except ErrKind State} (h : finish s r = .next t)
    (hr : ∀ u, r = .ok u → Effect s i u) : Completed s i t := by
  rcases finish_cases h with ⟨u, hu, rfl⟩ | ⟨e, -, rfl⟩
  · exact .inr ⟨u, hr u hu, rfl⟩
  · exact .inl ⟨e, rfl⟩

theorem completed_of_effect {u : State} (h : finish s (.ok u) = .next t) (hu : Effect s i u) :
    Completed s i t := by
  rw [finish_ok] at h
  cases h
  exact .inr ⟨u, hu, rfl⟩

theorem completed_reg {rd : Reg} {v : Elem} (h : finish s (.ok (s.setReg rd v)) = .next t)
    (hv : Inv s → Canonical v) : Completed s i t :=
  completed_of_effect h (.reg hv)

/-- A rule that runs f on the leading lanes has an effect on the lanes. -/
theorem effect_setLanes {k : Slot} {f : Descriptor → Column → Column}
    (hf : ∀ {d v}, SubkeysCanonical d → CanonicalList v → CanonicalList (f d v))
    (hvalid : (s.slot k).valid = true) :
    Effect s i (s.setLanes (f (s.slot k) (s.lanes (s.slot k).m.toNat))) :=
  .lanes fun hs => lanesWritten_canonical hs.svec
    (hf (hs.validSlot hvalid).subkeysCanonical (CanonicalList.take hs.svec _))

theorem completed_mapLanes {k : Slot} {f : Descriptor → Column → Column}
    (h : finish s (s.mapLanes k f) = .next t)
    (hf : ∀ {d v}, SubkeysCanonical d → CanonicalList v → CanonicalList (f d v)) :
    Completed s i t :=
  completed_of_rule h fun u hu => by
    obtain ⟨hvalid, rfl⟩ := mapLanes_ok_iff.mp hu
    exact effect_setLanes hf hvalid

theorem completed_mapLanesAt {k : Slot} {n : Nat} {bound : Descriptor → Nat}
    {f : Descriptor → Column → Column} (h : finish s (s.mapLanesAt k n bound f) = .next t)
    (hf : ∀ {d v}, SubkeysCanonical d → CanonicalList v → CanonicalList (f d v)) :
    Completed s i t :=
  completed_of_rule h fun u hu => by
    obtain ⟨hvalid, -, rfl⟩ := mapLanesAt_ok_iff.mp hu
    exact effect_setLanes hf hvalid

end Completion

/-! ### Commands with checks of their own -/

/-- A rule that answers a state has passed its check. -/
theorem ok_of_check {c : Prop} [Decidable c] {e : ErrKind} {r : Except ErrKind State} {u : State}
    (h : (if c then .error e else r) = .ok u) : ¬c ∧ r = .ok u := by
  split at h
  case isTrue => cases h
  case isFalse hc => exact ⟨hc, h⟩

theorem crdy_of_check {s : State} {e : ErrKind} {r : Except ErrKind State} {u : State}
    (h : (if !s.crdy then .error e else r) = .ok u) : s.crdy = true ∧ r = .ok u := by
  obtain ⟨hready, hr⟩ := ok_of_check h
  exact ⟨by simpa using hready, hr⟩

section Commands

variable {s t : State}

theorem execFld_completed {rd : Reg} {len : BitVec 6} (h : execFld rd len s = .next t) :
    Completed s (.fld rd len) t := by
  refine completed_of_rule h fun u hu => ?_
  obtain ⟨-, hu⟩ := ok_of_check hu
  split at hu
  case h_1 => cases hu
  case h_2 a ha =>
    cases hu
    exact .reg fun _ => fromBytesLe_canonical ha

theorem execFldw_completed {rd : Reg} {len : BitVec 6} (h : execFldw rd len s = .next t) :
    Completed s (.fldw rd len) t := by
  refine completed_of_rule h fun u hu => ?_
  obtain ⟨-, hu⟩ := ok_of_check hu
  cases hu
  exact .reg fun _ => wideReduce_canonical (List.length_take_le 48 s.dbuf.toList)

theorem execFinv_completed {rd ra : Reg} (h : execFinv rd ra s = .next t) :
    Completed s (.finv rd ra) t := by
  refine completed_of_rule h fun u hu => ?_
  split at hu
  case h_1 => cases hu
  case h_2 a ha =>
    cases hu
    exact .reg fun _ => finv_canonical ha

theorem execPdinitH_completed {k : Slot} {m cap : BitVec 4} (h : execPdinitH k m cap s = .next t) :
    Completed s (.pdinitH k m cap) t := by
  refine completed_of_rule h fun u hu => ?_
  obtain ⟨hm, hu⟩ := ok_of_check hu
  obtain ⟨hcap, hu⟩ := ok_of_check hu
  rw [not_or, not_lt, not_lt] at hm
  rw [not_or, not_le] at hcap
  split at hu
  case h_1 => cases hu
  case h_2 d hd =>
    cases hu
    have hpos : 1 ≤ cap.toNat := Nat.one_le_iff_ne_zero.mpr fun h0 =>
      hcap.1 (BitVec.eq_of_toNat_eq h0)
    exact .slot .hash fun _ => .inr (buildHash_valid hm.1 hm.2 hpos hcap.2 hd)

theorem execPdinitC_completed {k : Slot} {m : BitVec 4} {kb : Reg}
    (h : execPdinitC k m kb s = .next t) : Completed s (.pdinitC k m kb) t := by
  refine completed_of_rule h fun u hu => ?_
  obtain ⟨hm, hu⟩ := ok_of_check hu
  rw [not_or, not_lt, not_lt] at hm
  split at hu
  case h_1 => cases hu
  case h_2 d hd =>
    cases hu
    exact .slot .cipher fun hs => .inr (buildCipher_valid hm.1 hm.2 (hs.keyRegs kb _) hd)

/-- A read-out of an entry of a valid slot within the bounds of its check. -/
theorem completed_readEntry {i : Instr} {k : Slot} {rd : Reg} {outside : Descriptor → Prop}
    [∀ d, Decidable (outside d)] {entry : Descriptor → Elem}
    (h : finish s (s.withSlot k fun d =>
      if outside d then .error .indexOutOfRange else .ok (s.setReg rd (entry d))) = .next t)
    (hentry : ∀ {d}, ValidDescriptor d → ¬outside d → Canonical (entry d)) : Completed s i t := by
  refine completed_of_rule h fun u hu => ?_
  obtain ⟨hvalid, hu⟩ := withSlot_ok_iff.mp hu
  obtain ⟨hinside, hu⟩ := ok_of_check hu
  cases hu
  exact .reg fun hs => hentry (hs.validSlot hvalid) hinside

theorem mdsEntries_canonical {d : Descriptor} (hd : ValidDescriptor d) {i j : Nat}
    (hinside : ¬(d.m.toNat ≤ i ∨ d.m.toNat ≤ j)) :
    Canonical (tableEntry d.mds i j) ∧ Canonical (tableEntry d.mdsi i j) := by
  obtain ⟨-, -, h12, -, -, -, ⟨-, -, hcanonical, -⟩, -⟩ := hd
  exact hcanonical i (by omega) j (by omega)

theorem subkeyEntry_canonical {d : Descriptor} (hd : ValidDescriptor d) {n i : Nat}
    (hinside : ¬(2 * d.n.toNat < n ∨ d.m.toNat ≤ i)) : Canonical (tableEntry d.k n i) := by
  obtain ⟨-, -, h12, -, -, h35, -, hsubkeys, -⟩ := hd
  exact (hsubkeys n (by omega) i (by omega)).1

theorem execPdrdk_completed {rd : Reg} {k : Slot} {n : BitVec 7} {i : BitVec 4}
    (h : execPdrdk rd k n i s = .next t) : Completed s (.pdrdk rd k n i) t := by
  refine completed_of_rule h fun u hu => ?_
  obtain ⟨hvalid, hu⟩ := withSlot_ok_iff.mp hu
  obtain ⟨-, hu⟩ := ok_of_check hu
  obtain ⟨hinside, hu⟩ := ok_of_check hu
  cases hu
  exact .reg fun hs => subkeyEntry_canonical (hs.validSlot hvalid) hinside

theorem execVld_completed {i : BitVec 4} {ra : Reg} (h : execVld i ra s = .next t) :
    Completed s (.vld i ra) t := by
  refine completed_of_rule h fun u hu => ?_
  obtain ⟨-, hu⟩ := ok_of_check hu
  cases hu
  exact .lanes fun hs => laneWritten_canonical hs.svec _ (hs.reg ra)

theorem execVst_completed {rd : Reg} {i : BitVec 4} (h : execVst rd i s = .next t) :
    Completed s (.vst rd i) t := by
  refine completed_of_rule h fun u hu => ?_
  obtain ⟨-, hu⟩ := ok_of_check hu
  cases hu
  exact .reg fun hs => hs.lane _

/-! ### Sponge commands -/

/-- The sponge a hash starts with: position 0 below the rate m − cap (R283). -/
theorem spongeInv_start {k : Slot} {dlen : BitVec 4} (hd : ValidDescriptor (s.slot k))
    (hmode : (s.slot k).mode = .hash) (hdlen : dlen.toNat ≤ (s.slot k).m.toNat)
    (u : Vector Elem 12) :
    SpongeInv { s with
      svec := u, hslot := k, hrate := (s.slot k).m - (s.slot k).cap, hdlen := dlen, hpos := 0,
      hph := .absorb } := by
  obtain ⟨hvalid, -, -, ⟨hhash, -⟩, -⟩ := hd
  obtain ⟨hcap, hcapm⟩ := hhash hmode
  have hrate : ((s.slot k).m - (s.slot k).cap).toNat = (s.slot k).m.toNat - (s.slot k).cap.toNat :=
    BitVec.toNat_sub_of_le (BitVec.le_def.mpr hcapm.le)
  have hpos : 0 < ((s.slot k).m - (s.slot k).cap).toNat := by omega
  rw [SpongeInv, if_neg nofun]
  exact ⟨hvalid, hmode, hrate, hpos, hdlen, hpos⟩

theorem execHinit_completed {k : Slot} {dlen : BitVec 4} (h : execHinit k dlen s = .next t) :
    Completed s (.hinit k dlen) t := by
  refine completed_of_rule h fun u hu => ?_
  obtain ⟨hvalid, hu⟩ := withSlot_ok_iff.mp hu
  obtain ⟨hmode, hu⟩ := ok_of_check hu
  obtain ⟨hdlen, hu⟩ := ok_of_check hu
  cases hu
  exact .sponge (fun _ => replicate_canonical 12) fun hs =>
    spongeInv_start (hs.validSlot hvalid) (not_not.mp hmode) (not_lt.mp hdlen) _

/-- What R282 says of a sponge that is not idle. -/
theorem Inv.spongeBusy {s : State} (hs : Inv s) (hph : s.hph ≠ .idle) :
    (s.slot s.hslot).valid = true ∧ (s.slot s.hslot).mode = .hash ∧
    s.hrate.toNat = (s.slot s.hslot).m.toNat - (s.slot s.hslot).cap.toNat ∧ 1 ≤ s.hrate.toNat ∧
    s.hdlen.toNat ≤ (s.slot s.hslot).m.toNat ∧ s.hpos.toNat < s.hrate.toNat := by
  obtain ⟨-, -, -, hsponge, -⟩ := hs
  rwa [SpongeInv, if_neg hph] at hsponge

/-- In a phase other than IDLE the sponge's slot holds a valid descriptor (R282). -/
theorem Inv.spongeSlot {s : State} (hs : Inv s) (hph : s.hph ≠ .idle) :
    ValidDescriptor (s.slot s.hslot) :=
  hs.validSlot (hs.spongeBusy hph).1

/-- A sponge stays in order when its position stays below the rate. -/
theorem spongeInv_moved (hs : Inv s) (hph : s.hph ≠ .idle) {u : Vector Elem 12} {pos : BitVec 4}
    {ph : Phase} (hph' : ph ≠ .idle) (hpos : pos.toNat < s.hrate.toNat) :
    SpongeInv { s with svec := u, hpos := pos, hph := ph } := by
  obtain ⟨hvalid, hmode, hrate, hrate1, hdlen, -⟩ := hs.spongeBusy hph
  rw [SpongeInv, if_neg hph']
  exact ⟨hvalid, hmode, hrate, hrate1, hdlen, hpos⟩

theorem absorbPermute_canonical (hs : Inv s) (hph : s.hph ≠ .idle) {a : Elem} (ha : Canonical a) :
    CanonicalList (s.absorbAt a).permuteSponge.svec.toList :=
  permuteSponge_canonical (s := s.absorbAt a) (hs.spongeSlot hph).subkeysCanonical
    (absorbAt_canonical hs.svec ha)

/-- While the block has room the next position is below the rate (R284). -/
theorem hpos_succ_lt (hs : Inv s) (hph : s.hph ≠ .idle)
    (hroom : s.hpos.toNat + 1 ≠ s.hrate.toNat) : (s.hpos + 1).toNat < s.hrate.toNat := by
  obtain ⟨-, -, -, -, -, hpos⟩ := hs.spongeBusy hph
  have hrate := s.hrate.isLt
  rw [BitVec.toNat_add, show (1 : BitVec 4).toNat = 1 from rfl]
  omega

theorem execHabs_completed {ra : Reg} (h : execHabs ra s = .next t) : Completed s (.habs ra) t := by
  refine completed_of_rule h fun u hu => ?_
  obtain ⟨hph, hu⟩ := ok_of_check hu
  have hbusy : s.hph ≠ .idle := by rw [not_not.mp hph]; nofun
  split at hu
  case isTrue =>
    cases hu
    refine .sponge (fun hs => absorbPermute_canonical hs hbusy (hs.reg ra)) fun hs => ?_
    obtain ⟨-, -, -, hrate1, -⟩ := hs.spongeBusy hbusy
    exact spongeInv_moved hs hbusy hbusy hrate1
  case isFalse hroom =>
    cases hu
    exact .sponge (fun hs => absorbAt_canonical hs.svec (hs.reg ra)) fun hs =>
      spongeInv_moved hs hbusy hbusy (hpos_succ_lt hs hbusy hroom)

theorem execHfin_completed (h : execHfin s = .next t) : Completed s .hfin t := by
  refine completed_of_rule h fun u hu => ?_
  obtain ⟨hph, hu⟩ := ok_of_check hu
  have hbusy : s.hph ≠ .idle := by rw [not_not.mp hph]; nofun
  cases hu
  refine .sponge (fun hs => absorbPermute_canonical hs hbusy canonical_one) fun hs => ?_
  obtain ⟨-, -, -, hrate1, -⟩ := hs.spongeBusy hbusy
  exact spongeInv_moved hs hbusy nofun hrate1

theorem execHsqz_completed {rd : Reg} {i : BitVec 4} (h : execHsqz rd i s = .next t) :
    Completed s (.hsqz rd i) t := by
  refine completed_of_rule h fun u hu => ?_
  obtain ⟨-, hu⟩ := ok_of_check hu
  obtain ⟨-, hu⟩ := ok_of_check hu
  cases hu
  exact .reg fun hs => hs.lane _

/-! ### Cipher commands -/

theorem secretElem_canonical {secret : List Byte} {z : Elem} (h : secretElem secret = .ok z) :
    Canonical z := by
  unfold secretElem at h
  split at h
  case isTrue => cases h
  case isFalse => exact fromBytesLe_canonical h

theorem execCkey_completed {len : BitVec 6} (h : execCkey len s = .next t) :
    Completed s (.ckey len) t := by
  refine completed_of_rule h fun u hu => ?_
  obtain ⟨-, hu⟩ := ok_of_check hu
  split at hu
  case h_1 => cases hu
  case h_2 z hz =>
    split at hu
    case h_1 => cases hu
    case h_2 d0 hd0 =>
      split at hu
      case h_1 => cases hu
      case h_2 d1 hd1 =>
        cases hu
        have h0 : ValidDescriptor d0 :=
          buildHash_valid (by decide) (by decide) (by decide) (by decide) hd0
        exact .key h0 (buildCipher_valid (by decide) (by decide)
          (kdfKey_canonical h0.subkeysCanonical (secretElem_canonical hz)) hd1)

/-- An element of at most 16 bytes is below 2^128 (R302). -/
theorem fromBytesLe_lt_of_length {bs : List Byte} {n : Elem} (h : fromBytesLe bs = .ok n)
    (hlen : bs.length ≤ 16) : n.toNat < 2 ^ 128 := by
  calc n.toNat ≤ leNat bs := by
        rw [fromBytesLe_toNat h]
        exact Nat.mod_le _ _
    _ < 256 ^ bs.length := leNat_lt bs
    _ ≤ 256 ^ 16 := Nat.pow_le_pow_right (by decide) hlen
    _ = 2 ^ 128 := by decide

theorem execCnonce_completed {len : BitVec 6} (h : execCnonce len s = .next t) :
    Completed s (.cnonce len) t := by
  refine completed_of_rule h fun u hu => ?_
  split at hu
  case h_1 => cases hu
  case h_2 husable =>
    obtain ⟨-, hu⟩ := ok_of_check hu
    split at hu
    case h_1 => cases hu
    case h_2 n hn =>
      cases hu
      exact .nonce husable (fromBytesLe_lt_of_length hn (List.length_take_le 16 _))

/-- What `next_ks` gives is canonical while a nonce is loaded. -/
theorem keystream_canonical (hs : Inv s) (hr : s.crdy = true) {r : KeystreamStep}
    (h : s.nextKs = .ok r) : Canonical r.ks ∧ CanonicalList r.state.ks.toList := by
  obtain ⟨hvalid, hnonce, hks, -⟩ := hs.cipherReady hr
  have hblock := keystreamBlock_canonical hvalid.subkeysCanonical hnonce s.ctr.toNat
  by_cases h5 : s.kpos.toNat = 5
  · by_cases hc : s.ctr = BitVec.allOnes 64
    · rw [nextKs_overflow h5 hc] at h
      cases h
    · rw [nextKs_block h5 hc] at h
      cases h
      exact ⟨hblock.getD 0, ofFn_canonical fun i => hblock.getD i.val⟩
  · rw [nextKs_within h5] at h
    cases h
    exact ⟨CanonicalList.getD hks _, hks⟩

/-- A stream command that writes a register combines the keystream element with a canonical one. -/
theorem effect_streamReg {i : Instr} {u : State} {rd : Reg} {a : Elem} {op : Elem → Elem → Elem}
    (hi : StreamsToReg i) (hr : s.crdy = true)
    (hop : ∀ {a b}, Canonical a → Canonical b → Canonical (op a b)) (ha : Inv s → Canonical a)
    (hu : s.stream (fun t ks => t.setReg rd (op a ks)) = .ok u) : Effect s i u := by
  obtain ⟨r, hks, rfl⟩ := stream_ok_iff.mp hu
  exact .streamReg hi hr hks fun hs => hop (ha hs) (keystream_canonical hs hr hks).1

theorem execCenc_completed {rd ra : Reg} (h : execCenc rd ra s = .next t) :
    Completed s (.cenc rd ra) t := by
  refine completed_of_rule h fun u hu => ?_
  obtain ⟨hr, hu⟩ := crdy_of_check hu
  exact effect_streamReg .enc hr fadd_canonical (fun hs => hs.reg ra) hu

theorem execCdec_completed {rd ra : Reg} (h : execCdec rd ra s = .next t) :
    Completed s (.cdec rd ra) t := by
  refine completed_of_rule h fun u hu => ?_
  obtain ⟨hr, hu⟩ := crdy_of_check hu
  exact effect_streamReg .dec hr fsub_canonical (fun hs => hs.reg ra) hu

theorem execCencb_completed {ra : Reg} (h : execCencb ra s = .next t) :
    Completed s (.cencb ra) t := by
  refine completed_of_rule h fun u hu => ?_
  obtain ⟨hr, hu⟩ := crdy_of_check hu
  obtain ⟨r, hks, rfl⟩ := stream_ok_iff.mp hu
  exact .streamOut hr hks

theorem execCdecb_completed {rd : Reg} {len : BitVec 6} (h : execCdecb rd len s = .next t) :
    Completed s (.cdecb rd len) t := by
  refine completed_of_rule h fun u hu => ?_
  obtain ⟨hr, hu⟩ := crdy_of_check hu
  obtain ⟨-, hu⟩ := ok_of_check hu
  split at hu
  case h_1 => cases hu
  case h_2 c hc =>
    exact effect_streamReg .decBytes hr fsub_canonical (fun _ => fromBytesLe_canonical hc) hu

end Commands

/-! ### Every command -/

theorem setWidth16_canonical (imm : BitVec 16) : Canonical (imm.setWidth 256) := by
  rw [Canonical, BitVec.toNat_setWidth_of_le (by decide)]
  exact lt_trans imm.isLt (by decide)

/-- Every completion step records an error alone or has an effect of its command. -/
theorem exec_completed {i : Instr} {s t : State} (h : exec i s = .next t) : Completed s i t := by
  cases i with
  | nop => exact completed_of_effect h .nothing
  | fzero rd => exact completed_reg h fun _ => canonical_zero
  | fone rd => exact completed_reg h fun _ => canonical_one
  | fmov rd ra => exact completed_reg h fun hs => hs.reg ra
  | fldi rd imm16 => exact completed_reg h fun _ => setWidth16_canonical imm16
  | fld rd len => exact execFld_completed h
  | fldw rd len => exact execFldw_completed h
  | fst ra => exact completed_of_effect h .out
  | feq ra rb => exact completed_of_effect h .flag
  | fadd rd ra rb => exact completed_reg h fun hs => fadd_canonical (hs.reg ra) (hs.reg rb)
  | fsub rd ra rb => exact completed_reg h fun hs => fsub_canonical (hs.reg ra) (hs.reg rb)
  | fneg rd ra => exact completed_reg h fun hs => fneg_canonical (hs.reg ra)
  | fmul rd ra rb => exact completed_reg h fun _ => fmul_canonical _ _
  | fsqr rd ra => exact completed_reg h fun _ => fsqr_canonical _
  | fpow5 rd ra => exact completed_reg h fun _ => pow5_canonical _
  | finv rd ra => exact execFinv_completed h
  | fpow rd ra rb => exact completed_reg h fun _ => pow_canonical _ _
  | fpowu rd ra => exact completed_reg h fun _ => powU64_canonical _ _
  | pdinitH k m cap => exact execPdinitH_completed h
  | pdinitC k m kb => exact execPdinitC_completed h
  | pdclr k => exact completed_of_effect h (.slot .clear fun _ => .inl rfl)
  | pdrdm rd k r c => exact completed_readEntry h fun hd hin => (mdsEntries_canonical hd hin).1
  | pdrdmi rd k r c => exact completed_readEntry h fun hd hin => (mdsEntries_canonical hd hin).2
  | pdrdk rd k n e => exact execPdrdk_completed h
  | pdrdai rd => exact completed_reg h fun _ => by decide
  | vzero => exact completed_of_effect h (.lanes fun _ => replicate_canonical 12)
  | vld e ra => exact execVld_completed h
  | vst rd e => exact execVst_completed h
  | vaddk k n => exact completed_mapLanesAt h fun hd hv => hv.vadd (hd.subkey _)
  | vsubk k n => exact completed_mapLanesAt h fun hd hv => hv.vsub (hd.subkey _)
  | vpowa k => exact completed_mapLanes h fun _ _ => canonicalList_map pow5_canonical _
  | vpowai k => exact completed_mapLanes h fun _ _ => canonicalList_map (pow_canonical · _) _
  | vmds k => exact completed_mapLanes h fun _ _ => matvec_canonical _ _
  | vmdsi k => exact completed_mapLanes h fun _ _ => matvec_canonical _ _
  | psub k n => exact completed_mapLanesAt h fun hd _ => subRound_canonical _ _ _ _ (hd.subkey _)
  | psubi k n => exact completed_mapLanesAt h fun _ _ => subRoundInverse_canonical _ _ _ _ _
  | perm k => exact completed_mapLanes h fun hd hv => permute_canonical hd hv
  | permi k => exact completed_mapLanes h fun hd hv => permuteInverse_canonical hd hv
  | hinit k dlen => exact execHinit_completed h
  | habs ra => exact execHabs_completed h
  | hfin => exact execHfin_completed h
  | hsqz rd e => exact execHsqz_completed h
  | ckey len => exact execCkey_completed h
  | cnonce len => exact execCnonce_completed h
  | cenc rd ra => exact execCenc_completed h
  | cdec rd ra => exact execCdec_completed h
  | cencb ra => exact execCencb_completed h
  | cdecb rd len => exact execCdecb_completed h

end Sys2Proof.Machine
end

section
/-! Every step keeps the invariant (spec/10_state.md R22, R27, R282, R300): the effects of the commands,
the recording of an error, the bus and the resets. -/

namespace Sys2Proof.Machine

/-! ### The handshake -/

/-- A completion that records no error keeps the handshake consistent. -/
theorem handshakeInv_after {s u : State} (hs : HandshakeInv s) (herr : u.err = s.err)
    (hcode : u.errcode = s.errcode) : HandshakeInv (after u) := by
  obtain ⟨-, -, hset, hclear⟩ := hs
  rw [← herr, ← hcode] at hset hclear
  exact ⟨rfl, nofun, fun he => ⟨rfl, (hset he).2⟩, hclear⟩

theorem errCode_range (e : ErrKind) : 1 ≤ e.code.toNat ∧ e.code.toNat ≤ 6 := by
  cases e <;> decide

theorem handshakeInv_afterError (s : State) (e : ErrKind) : HandshakeInv (afterError s e) :=
  ⟨rfl, nofun, fun _ => ⟨rfl, errCode_range e⟩, nofun⟩

/-- Taking an error keeps the invariant: no other piece of state changes (R341). -/
theorem Inv.afterError {s : State} (hs : Inv s) (e : ErrKind) : Inv (afterError s e) := by
  obtain ⟨helem, h0, h1, hsponge, hcipher, -⟩ := hs
  exact ⟨helem, h0, h1, hsponge, hcipher, handshakeInv_afterError s e⟩

/-! ### Replacing a slot -/

theorem installSlot_errors (s : State) (k : Slot) (d : Descriptor) :
    (s.installSlot k d).err = s.err ∧ (s.installSlot k d).errcode = s.errcode := by
  unfold State.installSlot
  split <;> split <;> simp

/-- The slot a hash uses is gone: the sponge is idle (R389). -/
theorem installSlot_sponge_same {s : State} {k : Slot} (h : k = s.hslot) (d : Descriptor) :
    SpongeInv (s.installSlot k d) := by
  have hidle : (s.installSlot k d).hph = .idle := by
    cases k <;> simp [State.installSlot, ← h]
  rw [SpongeInv, if_pos hidle]
  cases k <;> simp [State.installSlot, ← h]

/-- Another slot's replacement leaves the sponge and its slot. -/
theorem installSlot_sponge_other {s : State} {k : Slot} (h : k ≠ s.hslot) (d : Descriptor)
    (hs : SpongeInv s) : SpongeInv (s.installSlot k d) := by
  obtain ⟨-, hother, -⟩ := installSlot_frame s k d
  have hkept := hother s.hslot (Ne.symm h)
  have hfields : (s.installSlot k d).hslot = s.hslot ∧ (s.installSlot k d).hrate = s.hrate ∧
      (s.installSlot k d).hdlen = s.hdlen ∧ (s.installSlot k d).hpos = s.hpos ∧
      (s.installSlot k d).hph = s.hph := by
    cases k <;> simp [State.installSlot, h]
  obtain ⟨hslot, hrate, hdlen, hpos, hph⟩ := hfields
  rw [SpongeInv, hslot, hrate, hdlen, hpos, hph, hkept]
  exact hs

/-- A replacement of slot 1 resets the cipher bookkeeping; one of slot 0 leaves it and slot 1. -/
theorem installSlot_cipher {s : State} (k : Slot) (d : Descriptor) (hs : CipherInv s) :
    CipherInv (s.installSlot k d) := by
  cases k with
  | pd1 => exact ⟨rfl, rfl, rfl, rfl⟩
  | pd0 =>
    have hfields : (s.installSlot .pd0 d).crdy = s.crdy ∧ (s.installSlot .pd0 d).pd1 = s.pd1 ∧
        (s.installSlot .pd0 d).nonce = s.nonce ∧ (s.installSlot .pd0 d).ctr = s.ctr ∧
        (s.installSlot .pd0 d).ks = s.ks ∧ (s.installSlot .pd0 d).kpos = s.kpos := by
      unfold State.installSlot
      split <;> simp
    obtain ⟨hcrdy, hpd1, hnonce, hctr, hks, hkpos⟩ := hfields
    rw [CipherInv, hcrdy, hpd1, hnonce, hctr, hks, hkpos]
    exact hs

theorem installSlot_elements {s : State} (k : Slot) (d : Descriptor) (hs : ElementsInv s) :
    ElementsInv (s.installSlot k d) := by
  obtain ⟨-, -, hx, hsvec, -⟩ := installSlot_frame s k d
  obtain ⟨hxs, hsvecs, hnonce, hks⟩ := hs
  rw [ElementsInv, hx, hsvec]
  refine ⟨hxs, hsvecs, ?_⟩
  cases k with
  | pd1 => exact ⟨canonical_zero, replicate_canonical 5⟩
  | pd0 =>
    unfold State.installSlot
    split <;> exact ⟨hnonce, hks⟩

theorem Inv.installSlot {s : State} (hs : Inv s) (k : Slot) {d : Descriptor} (hd : SlotInv d) :
    Inv (after (s.installSlot k d)) := by
  obtain ⟨hsame, hother, -⟩ := installSlot_frame s k d
  obtain ⟨herr, hcode⟩ := installSlot_errors s k d
  have hslot : ∀ k', SlotInv ((s.installSlot k d).slot k') := by
    intro k'
    by_cases h : k' = k
    · rw [h, hsame]
      exact hd
    · rw [hother k' h]
      exact hs.slot k'
  obtain ⟨helem, -, -, hsponge, hcipher, hhand⟩ := hs
  refine ⟨installSlot_elements k d helem, hslot .pd0, hslot .pd1, ?_, installSlot_cipher k d hcipher,
    handshakeInv_after hhand herr hcode⟩
  by_cases h : k = s.hslot
  · exact installSlot_sponge_same h d
  · exact installSlot_sponge_other h d hsponge

/-! ### The keystream -/

/-- `next_ks` keeps the invariant while a nonce is loaded. -/
theorem Inv.nextKs {s : State} (hs : Inv s) (hr : s.crdy = true) {r : KeystreamStep}
    (h : s.nextKs = .ok r) : Inv r.state := by
  have hks := (keystream_canonical hs hr h).2
  have hframe := nextKs_frame h
  have hkpos : r.state.kpos.toNat ≤ 5 := by
    obtain ⟨-, -, -, hle⟩ := hs.cipherReady hr
    by_cases h5 : s.kpos.toNat = 5
    · by_cases hc : s.ctr = BitVec.allOnes 64
      · rw [nextKs_overflow h5 hc] at h
        cases h
      · rw [nextKs_block h5 hc] at h
        cases h
        exact Nat.le_of_ble_eq_true rfl
    · rw [nextKs_within h5] at h
      cases h
      change (s.kpos + 1).toNat ≤ 5
      rw [BitVec.toNat_add, show (1 : BitVec 3).toNat = 1 from rfl]
      omega
  obtain ⟨⟨hx, hsvec, hnonce, -⟩, h0, h1, hsponge, hcipher, hhand⟩ := hs
  rw [CipherInv, if_pos hr] at hcipher
  obtain ⟨hvalid, hmode, hm, hn, hnonce', -⟩ := hcipher
  rw [hframe]
  refine ⟨⟨hx, hsvec, hnonce, hks⟩, h0, h1, hsponge, ?_, hhand⟩
  rw [CipherInv, if_pos hr]
  exact ⟨hvalid, hmode, hm, hn, hnonce', hkpos⟩

/-! ### One effect -/

theorem Inv.after {s : State} (hs : Inv s) : Inv (after s) := by
  obtain ⟨helem, h0, h1, hsponge, hcipher, hhand⟩ := hs
  exact ⟨helem, h0, h1, hsponge, hcipher, handshakeInv_after hhand rfl rfl⟩

theorem Inv.setReg {s : State} (hs : Inv s) (rd : Reg) {v : Elem} (hv : Canonical v) :
    Inv (s.setReg rd v) := by
  obtain ⟨⟨hx, helem⟩, hrest⟩ := hs
  exact ⟨⟨set_canonical hx rd.isLt hv, helem⟩, hrest⟩

theorem Inv.setDout {s : State} (hs : Inv s) (v : Elem) : Inv (s.setDout v) := hs

/-- Both slots new, everything that used them idle (R301). -/
theorem Inv.keyLoad {s : State} (hs : Inv s) {d0 d1 : Descriptor} (h0 : ValidDescriptor d0)
    (h1 : ValidDescriptor d1) (b : Vector Byte 48) :
    Inv { (((s.setSlot .pd0 d0).setSlot .pd1 d1).clearLanes.resetSponge.resetCipher) with
      dbuf := b } := by
  obtain ⟨⟨hx, -⟩, -, -, -, -, hhand⟩ := hs
  exact ⟨⟨hx, replicate_canonical 12, canonical_zero, replicate_canonical 5⟩, .inr h0, .inr h1,
    ⟨rfl, rfl, rfl, rfl⟩, ⟨rfl, rfl, rfl, rfl⟩, hhand⟩

/-- A message starts on a usable slot 1, whose round count is that of m = 5 (R302). -/
theorem Inv.nonceLoad {s : State} (hs : Inv s) (hslot : s.usable = .ok ()) {n : Elem}
    (hn : n.toNat < 2 ^ 128) : Inv { s with
      nonce := n, ctr := 0, ks := Vector.replicate 5 0#256, kpos := 5, crdy := true } := by
  obtain ⟨hvalid, hmode, hm⟩ := (usable_ok_iff s).mp hslot
  obtain ⟨⟨hx, hsvec, -⟩, h0, h1, hsponge, -, hhand⟩ := hs
  obtain ⟨-, -, -, -, ⟨-, hrounds⟩, -⟩ := slotInv_valid h1 hvalid
  have h10 : s.pd1.n.toNat = 10 := by
    rw [hrounds hmode, hm]
    decide
  exact ⟨⟨hx, hsvec, lt_trans hn (by decide), replicate_canonical 5⟩, h0, h1, hsponge,
    ⟨hvalid, hmode, hm, h10, hn, Nat.le_refl 5⟩, hhand⟩

/-- Every effect of a command, completed, keeps the invariant. -/
theorem Effect.keeps_inv {s u : State} {i : Instr} (h : Effect s i u) (hs : Inv s) :
    Inv (after u) := by
  cases h with
  | nothing => exact hs.after
  | reg hv => exact (hs.setReg _ (hv hs)).after
  | out => exact (hs.setDout _).after
  | flag => exact hs.after
  | slot _ hd => exact hs.installSlot _ (hd hs)
  | key h0 h1 => exact (hs.keyLoad h0 h1 _).after
  | nonce hslot hn => exact (hs.nonceLoad hslot hn).after
  | streamReg _ hr hks hv => exact ((hs.nextKs hr hks).setReg _ (hv hs)).after
  | streamOut hr hks => exact ((hs.nextKs hr hks).setDout _).after
  | lanes hu =>
    have hcanonical := hu hs
    obtain ⟨⟨hx, -, helem⟩, h0, h1, hsponge, hcipher, hhand⟩ := hs
    exact ⟨⟨hx, hcanonical, helem⟩, h0, h1, hsponge, hcipher, handshakeInv_after hhand rfl rfl⟩
  | sponge hu hsp =>
    have hcanonical := hu hs
    have hsponge := hsp hs
    obtain ⟨⟨hx, -, helem⟩, h0, h1, -, hcipher, hhand⟩ := hs
    exact ⟨⟨hx, hcanonical, helem⟩, h0, h1, hsponge, hcipher, handshakeInv_after hhand rfl rfl⟩

/-! ### The bus and the resets -/

theorem slotInv_cleared : SlotInv Descriptor.cleared := .inl rfl

/-- The unit's state after a reset meets the invariant; the fields of the environment do not matter. -/
theorem inv_reset (cfg : Config) (script : List Event) (rdata : Option Word) :
    Inv { State.reset with cfg := cfg, script := script, rdata := rdata } :=
  ⟨⟨replicate_canonical 16, replicate_canonical 12, canonical_zero, replicate_canonical 5⟩,
    slotInv_cleared, slotInv_cleared, ⟨rfl, rfl, rfl, rfl⟩, ⟨rfl, rfl, rfl, rfl⟩,
    ⟨rfl, nofun, nofun, fun _ => rfl⟩⟩

theorem Inv.softReset (s : State) : Inv s.softReset := inv_reset _ _ _

/-- An accepted command is pending, and a dropped one leaves the state (R70). -/
theorem Inv.issue {s : State} (hs : Inv s) (w : Word) : Inv (s.issue w) := by
  unfold State.issue
  split
  · exact hs
  · rename_i herr
    obtain ⟨helem, h0, h1, hsponge, hcipher, -, -, -, hclear⟩ := hs
    have hfalse : s.err = false := by simpa using herr
    exact ⟨helem, h0, h1, hsponge, hcipher, rfl, fun _ => ⟨rfl, hfalse⟩,
      fun h => absurd h herr, hclear⟩

theorem Inv.clearError {s : State} (hs : Inv s) : Inv s.clearError := by
  obtain ⟨helem, h0, h1, hsponge, hcipher, hbusy, hpending, -⟩ := hs
  exact ⟨helem, h0, h1, hsponge, hcipher, hbusy, fun h => ⟨(hpending h).1, rfl⟩, nofun, fun _ => rfl⟩

/-- Every write of the register space keeps the invariant. -/
theorem Inv.writeWord {s : State} (hs : Inv s) (addr : Nat) (v : Word) : Inv (s.writeWord addr v) := by
  rcases writeWord_cases s addr v with h | h | ⟨e, h⟩ | ⟨off, h⟩ | h <;> rw [h]
  · exact hs.issue v
  · rcases writeCtrl_cases s v with hctrl | hctrl | hctrl <;> rw [hctrl]
    · exact Inv.softReset s
    · exact hs.clearError
    · exact hs
  · exact hs
  · exact hs
  · exact hs

theorem exec_keeps_inv {i : Instr} {s t : State} (hs : Inv s) (h : exec i s = .next t) : Inv t := by
  rcases exec_completed h with ⟨e, rfl⟩ | ⟨u, hu, rfl⟩
  · exact hs.afterError e
  · exact hu.keeps_inv hs

theorem unitTurn_keeps_inv {s t : State} (hs : Inv s) (h : unitTurn s = .next t) : Inv t := by
  rcases unitTurn_cases s with ⟨-, he⟩ | ⟨w, i, -, -, he⟩ | ⟨w, e, -, -, he⟩ <;> rw [he] at h
  · cases h
    exact hs
  · exact exec_keeps_inv hs h
  · cases h
    exact hs.afterError _

theorem busRead_keeps_inv {s t : State} {addr n : Nat} (hs : Inv s) (h : busRead addr n s = .next t) :
    Inv t := by
  rcases busRead_cases addr n s with ⟨-, he⟩ | ⟨-, -, -, he⟩ | ⟨-, -, he⟩ <;> rw [he] at h <;> cases h
  exact hs

theorem busWrite_keeps_inv {s t : State} {addr n : Nat} {v : Word} (hs : Inv s)
    (h : busWrite addr n v s = .next t) : Inv t := by
  rcases busWrite_cases addr n v s with ⟨-, he⟩ | ⟨-, -, -, he⟩ | ⟨-, -, he⟩ <;> rw [he] at h <;>
    cases h
  exact hs.writeWord addr v

/-- The invariant does not speak of the events still to come. -/
theorem Inv.withScript {s : State} (hs : Inv s) (es : List Event) : Inv { s with script := es } := hs

/-- Settles O56, by what a step can do: a completion step, a bus access, a reset. -/
theorem stepKeepsInv : Obligations.StepKeepsInv := by
  intro s t hs h
  rcases step_cases s with ⟨-, he⟩ | ⟨es, -, he⟩ | ⟨a, n, es, -, he⟩ | ⟨a, n, v, es, -, he⟩ |
      ⟨es, -, he⟩ <;> rw [he] at h
  · exact unitTurn_keeps_inv hs h
  · exact unitTurn_keeps_inv (hs.withScript es) h
  · exact busRead_keeps_inv (hs.withScript es) h
  · exact busWrite_keeps_inv (hs.withScript es) h
  · cases h
    exact Inv.softReset _

/-- Settles O55: the state after reset, with its own configuration and an empty script. -/
theorem invAtReset : Obligations.InvAtReset := inv_reset _ _ _

end Sys2Proof.Machine
end

section
/-! Which commands write which pieces of state (spec/10_state.md R25, R28, R30 to R32, R38), read off the
effects of `exec_completed`. -/

namespace Sys2Proof.Machine

section Kept

variable {s u : State} {i : Instr}

theorem Effect.exp_kept (h : Effect s i u) : u.exp = s.exp := by
  cases h with
  | slot => obtain ⟨-, -, -, -, -, -, hexp, -⟩ := installSlot_frame s _ _; exact hexp
  | key => simp
  | streamReg _ _ hks => rw [nextKs_frame hks]; rfl
  | streamOut _ hks => rw [nextKs_frame hks]; rfl
  | _ => rfl

theorem Effect.eq_kept (h : Effect s i u) (hi : ∀ ra rb, i ≠ .feq ra rb) : u.eq = s.eq := by
  cases h with
  | flag => exact absurd rfl (hi _ _)
  | slot => obtain ⟨-, -, -, -, -, -, -, heq⟩ := installSlot_frame s _ _; exact heq
  | key => simp
  | streamReg _ _ hks => rw [nextKs_frame hks]; rfl
  | streamOut _ hks => rw [nextKs_frame hks]; rfl
  | _ => rfl

theorem Effect.dbuf_kept (h : Effect s i u) (hi : ∀ len, i ≠ .ckey len) : u.dbuf = s.dbuf := by
  cases h with
  | key => exact absurd rfl (hi _)
  | slot => obtain ⟨-, -, -, -, hdbuf, -⟩ := installSlot_frame s _ _; exact hdbuf
  | streamReg _ _ hks => rw [nextKs_frame hks]; rfl
  | streamOut _ hks => rw [nextKs_frame hks]; rfl
  | _ => rfl

theorem Effect.dout_kept (h : Effect s i u) (hfst : ∀ ra, i ≠ .fst ra) (hcencb : ∀ ra, i ≠ .cencb ra) :
    u.dout = s.dout := by
  cases h with
  | out => exact absurd rfl (hfst _)
  | streamOut => exact absurd rfl (hcencb _)
  | slot => obtain ⟨-, -, -, -, -, hdout, -⟩ := installSlot_frame s _ _; exact hdout
  | key => simp
  | streamReg _ _ hks => rw [nextKs_frame hks]; rfl
  | _ => rfl

/-- The command is none of those that put a descriptor into a slot or clear one. -/
structure KeepsSlots (i : Instr) : Prop where
  replace : ∀ k, ¬ReplacesSlot k i
  key : ∀ len, i ≠ .ckey len

theorem keepsSlots_of_ne (hhash : ∀ k m cap, i ≠ .pdinitH k m cap)
    (hcipher : ∀ k m kb, i ≠ .pdinitC k m kb) (hclear : ∀ k, i ≠ .pdclr k)
    (hkey : ∀ len, i ≠ .ckey len) : KeepsSlots i where
  key := hkey
  replace k hr := by
    cases hr with
    | hash => exact hhash _ _ _ rfl
    | cipher => exact hcipher _ _ _ rfl
    | clear => exact hclear _ rfl

theorem Effect.slots_kept (h : Effect s i u) (hi : KeepsSlots i) : u.pd0 = s.pd0 ∧ u.pd1 = s.pd1 := by
  cases h with
  | slot hr => exact absurd hr (hi.replace _)
  | key => exact absurd rfl (hi.key _)
  | streamReg _ _ hks => rw [nextKs_frame hks]; exact ⟨rfl, rfl⟩
  | streamOut _ hks => rw [nextKs_frame hks]; exact ⟨rfl, rfl⟩
  | _ => exact ⟨rfl, rfl⟩

theorem Effect.nonce_kept (h : Effect s i u) (hi : KeepsSlots i) (hnonce : ∀ len, i ≠ .cnonce len) :
    u.crdy = s.crdy ∧ u.nonce = s.nonce := by
  cases h with
  | slot hr => exact absurd hr (hi.replace _)
  | key => exact absurd rfl (hi.key _)
  | nonce => exact absurd rfl (hnonce _)
  | streamReg _ _ hks => rw [nextKs_frame hks]; exact ⟨rfl, rfl⟩
  | streamOut _ hks => rw [nextKs_frame hks]; exact ⟨rfl, rfl⟩
  | _ => exact ⟨rfl, rfl⟩

theorem Effect.position_kept (h : Effect s i u) (hi : KeepsSlots i) (hnonce : ∀ len, i ≠ .cnonce len)
    (hreg : ¬StreamsToReg i) (hcencb : ∀ ra, i ≠ .cencb ra) :
    u.ctr = s.ctr ∧ u.ks = s.ks ∧ u.kpos = s.kpos := by
  cases h with
  | slot hr => exact absurd hr (hi.replace _)
  | key => exact absurd rfl (hi.key _)
  | nonce => exact absurd rfl (hnonce _)
  | streamReg hi => exact absurd hi hreg
  | streamOut => exact absurd rfl (hcencb _)
  | _ => exact ⟨rfl, rfl, rfl⟩

end Kept

/-- Settles O59, from what each effect keeps; an error keeps all of it. -/
theorem ownersOfState : Obligations.OwnersOfState := by
  intro i s t h
  rcases exec_completed h with ⟨e, rfl⟩ | ⟨u, hu, rfl⟩
  · exact ⟨rfl, fun _ => rfl, fun _ => rfl, fun _ _ => rfl,
      fun _ _ _ _ => ⟨rfl, rfl, fun _ => ⟨rfl, rfl, fun _ _ _ _ => ⟨rfl, rfl, rfl⟩⟩⟩⟩
  · refine ⟨hu.exp_kept, hu.eq_kept, hu.dbuf_kept, hu.dout_kept, fun hhash hcipher hclear hkey => ?_⟩
    have hslots := keepsSlots_of_ne hhash hcipher hclear hkey
    obtain ⟨hpd0, hpd1⟩ := hu.slots_kept hslots
    refine ⟨hpd0, hpd1, fun hnonce => ?_⟩
    obtain ⟨hcrdy, hnonceKept⟩ := hu.nonce_kept hslots hnonce
    refine ⟨hcrdy, hnonceKept, fun henc hdec hcencb hdecb => hu.position_kept hslots hnonce ?_ hcencb⟩
    intro hstream
    cases hstream with
    | enc => exact henc _ _ rfl
    | dec => exact hdec _ _ rfl
    | decBytes => exact hdecb _ _ rfl

end Sys2Proof.Machine
end

section
/-! Bus reads of the registers as integers, and what no read depends on (spec/10_state.md R31, R34, R35,
R37 to R41, R43; spec/20_memory.md R73). -/

namespace Sys2Proof.Machine

/-! ### When a read answers -/

theorem busRead_next_iff {addr n : Nat} {s t : State} : busRead addr n s = .next t ↔
    legalAccess addr n = true ∧ (s.busy = true → readAllowedBusy addr = true) ∧
      t = { s with rdata := some (s.readWord addr) } := by
  rcases busRead_cases addr n s with ⟨hl, he⟩ | ⟨-, hb, ha, he⟩ | ⟨hl, hb, he⟩ <;> rw [he]
  · simp [hl]
  · simp [hb, ha]
  · simp only [hl, Host.Outcome.next.injEq, true_and]
    exact ⟨fun e => ⟨hb, e.symm⟩, fun ⟨_, e⟩ => e.symm⟩

/-- While the unit is not busy a read answers the integer its word stands for. -/
theorem readsAs_of_toNat {s : State} (hbusy : s.busy = false) {addr v : Nat}
    (hlegal : legalAccess addr 4 = true) (hword : (s.readWord addr).toNat = v) :
    ReadsAs s addr v := by
  refine busRead_next_iff.mpr ⟨hlegal, fun h => ?_, ?_⟩
  · rw [hbusy] at h
    cases h
  · rw [← hword, BitVec.ofNat_toNat, BitVec.setWidth_eq]

/-! ### The words of the read-only registers -/

theorem toNat_append_eq_add {m n : Nat} (a : BitVec m) (b : BitVec n) :
    (a ++ b).toNat = a.toNat * 2 ^ n + b.toNat := by
  rw [BitVec.toNat_append, ← Nat.shiftLeft_add_eq_or_of_lt b.isLt, Nat.shiftLeft_eq]

@[simp] theorem bitOfBool_toNat (b : Bool) : (bitOfBool b).toNat = b.toNat := by
  cases b <;> rfl

@[simp] theorem phaseBits_toNat (p : Phase) : (phaseBits p).toNat = phaseValue p := by
  cases p <;> rfl

theorem modeBit_toNat (m : Mode) : (modeBit m).toNat = if m = .cipher then 1 else 0 := by
  cases m <;> rfl

theorem bitOfSlot_toNat (k : Slot) : (bitOfSlot k).toNat = if k = .pd1 then 1 else 0 := by
  cases k <;> rfl

/-- R34. -/
theorem statusWord_toNat (s : State) : s.statusWord.toNat =
    s.busy.toNat + 2 * s.done.toNat + 4 * s.err.toNat + 8 * s.eq.toNat + 16 * s.pd0.valid.toNat
      + 32 * s.pd1.valid.toNat + 64 * s.crdy.toNat + 256 * phaseValue s.hph := by
  simp only [State.statusWord, toNat_append_eq_add, bitOfBool_toNat, phaseBits_toNat,
    BitVec.toNat_zero]
  ring

/-- R39. -/
theorem infoWord_toNat (d : Descriptor) : d.infoWord.toNat = infoValue d := by
  unfold Descriptor.infoWord infoValue
  split
  · simp only [toNat_append_eq_add, modeBit_toNat, BitVec.toNat_zero, BitVec.toNat_one zero_lt_one]
    ring
  · rfl

/-- R40. -/
theorem hinfoWord_toNat (s : State) : s.hinfoWord.toNat =
    s.hrate.toNat + 2 ^ 4 * s.hdlen.toNat + 2 ^ 8 * s.hpos.toNat + 2 ^ 12 * phaseValue s.hph
      + 2 ^ 14 * (if s.hslot = .pd1 then 1 else 0) := by
  simp only [State.hinfoWord, toNat_append_eq_add, bitOfSlot_toNat, phaseBits_toNat,
    BitVec.toNat_zero]
  ring

theorem errcodeWord_toNat (s : State) : s.errcodeWord.toNat = s.errcode.toNat :=
  BitVec.toNat_setWidth_of_le (by decide)

/-- The low half of a 64-bit register (R37, R38). -/
theorem lowHalf_toNat (a : BitVec 64) : (a.setWidth 32).toNat = a.toNat % 2 ^ 32 :=
  BitVec.toNat_setWidth ..

/-- The high half of a 64-bit register (R37, R38). -/
theorem highHalf_toNat (a : BitVec 64) : (a.extractLsb' 32 32).toNat = a.toNat / 2 ^ 32 := by
  have ha := a.isLt
  rw [BitVec.extractLsb'_toNat, Nat.shiftRight_eq_div_pow, Nat.mod_eq_of_lt (by omega)]

/-- Settles O8, register by register. -/
theorem registerReads : Obligations.RegisterReads := by
  intro s hbusy
  refine ⟨readsAs_of_toNat hbusy rfl ?_, readsAs_of_toNat hbusy rfl (errcodeWord_toNat s),
    readsAs_of_toNat hbusy rfl (lowHalf_toNat s.exp),
    readsAs_of_toNat hbusy rfl (highHalf_toNat s.exp),
    readsAs_of_toNat hbusy rfl (infoWord_toNat s.pd0),
    readsAs_of_toNat hbusy rfl (infoWord_toNat s.pd1),
    readsAs_of_toNat hbusy rfl (hinfoWord_toNat s),
    readsAs_of_toNat hbusy rfl (lowHalf_toNat s.ctr),
    readsAs_of_toNat hbusy rfl (highHalf_toNat s.ctr), readsAs_of_toNat hbusy rfl rfl⟩
  change s.statusWord.toNat = _
  rw [statusWord_toNat, hbusy, Bool.toNat_false, Nat.zero_add]

/-! ### What a read cannot see -/

/-- Everything a read looks at: the read-only registers' words, `EXP`, `CTR` and `DOUT`. -/
theorem readWord_congr {s s' : State} (hstatus : s'.statusWord = s.statusWord)
    (herr : s'.errcodeWord = s.errcodeWord) (hexp : s'.exp = s.exp)
    (hpd0 : s'.pd0.infoWord = s.pd0.infoWord) (hpd1 : s'.pd1.infoWord = s.pd1.infoWord)
    (hhash : s'.hinfoWord = s.hinfoWord) (hctr : s'.ctr = s.ctr) (hdout : s'.dout = s.dout)
    (addr : Nat) : s'.readWord addr = s.readWord addr := by
  simp only [State.readWord, State.doutByte, hstatus, herr, hexp, hpd0, hpd1, hhash, hctr, hdout]

/-- Settles O60: none of the words a read looks at is made of the secret pieces of state. -/
theorem busCannotSeeSecrets : Obligations.BusCannotSeeSecrets := by
  intro s x svec mds0 mdsi0 mds1 mdsi1 k0 k1 nonce ks kpos dbuf addr n t h
  obtain ⟨hlegal, hbusy, rfl⟩ := busRead_next_iff.mp h
  exact ⟨_, busRead_next_iff.mpr ⟨hlegal, hbusy, rfl⟩,
    congrArg some (readWord_congr rfl rfl rfl rfl rfl rfl rfl rfl addr)⟩

end Sys2Proof.Machine
end

section
/-! Writes to `CTRL`, and the state the two resets leave (spec/10_state.md R36, R44; spec/46_system.md R332,
R333; spec/70_reset_and_hazards.md R380, R381). -/

namespace Sys2Proof.Machine

/-! ### `CTRL` -/

/-- A legal write that the busy unit does not refuse takes its effect. -/
theorem busWrite_of_allowed {addr n : Nat} {v : Word} {s : State} (hlegal : legalAccess addr n = true)
    (hbusy : s.busy = true → writeAllowedBusy addr v = true) :
    busWrite addr n v s = .next (s.writeWord addr v) := by
  rcases busWrite_cases addr n v s with ⟨hl, -⟩ | ⟨-, hb, ha, -⟩ | ⟨-, -, he⟩
  · rw [hl] at hlegal
    cases hlegal
  · rw [hbusy hb] at ha
    cases ha
  · exact he

theorem busWrite_ctrl_idle {s : State} (hbusy : s.busy = false) (v : Word) :
    busWrite 0x0C 4 v s = .next (s.writeCtrl v) :=
  busWrite_of_allowed rfl fun h => absurd h (by simp [hbusy])

theorem busWrite_ctrl_srst (s : State) {v : Word} (hv : v[0] = true) :
    busWrite 0x0C 4 v s = .next (s.writeCtrl v) :=
  busWrite_of_allowed rfl fun _ => by simp [writeAllowedBusy, hv]

theorem writeCtrl_reserved (s : State) {v : Word} (h : 4 ≤ v.toNat) : s.writeCtrl v = s := by
  have hv := v.isLt
  have hbits : v.extractLsb' 2 30 ≠ 0#30 := by
    intro hzero
    have hnat := congrArg BitVec.toNat hzero
    rw [BitVec.extractLsb'_toNat, Nat.shiftRight_eq_div_pow, BitVec.toNat_zero] at hnat
    omega
  exact if_pos hbits

theorem writeCtrl_srst (s : State) {v : Word} (h : v = 1 ∨ v = 3) : s.writeCtrl v = s.softReset := by
  rcases h with rfl | rfl <;> rfl

theorem writeCtrl_clear (s : State) : s.writeCtrl 2 = s.clearError := rfl

theorem writeCtrl_zero (s : State) : s.writeCtrl 0 = s := rfl

/-- Settles O11, from what each value written to `CTRL` does. -/
theorem resetAndClearError : Obligations.ResetAndClearError := by
  intro s
  refine ⟨fun v hv => ?_, rfl, fun hbusy => ⟨?_, ?_, fun v hv => ?_⟩⟩
  · have hbit : v[0] = true := by rcases hv with rfl | rfl <;> rfl
    rw [busWrite_ctrl_srst s hbit, writeCtrl_srst s hv]
    rfl
  · rw [busWrite_ctrl_idle hbusy, writeCtrl_clear]
    rfl
  · rw [busWrite_ctrl_idle hbusy, writeCtrl_zero]
  · rw [busWrite_ctrl_idle hbusy, writeCtrl_reserved s hv]

/-! ### The state after a reset -/

theorem get_replicate {α : Type} {n : Nat} (a : α) (i : Fin n) : (Vector.replicate n a).get i = a := by
  simp [Vector.get]

/-- A table of zeros has zero entries. -/
theorem get_get_replicate {n : Nat} (i : Fin n) (j : Fin 12) :
    ((Vector.replicate n (Vector.replicate 12 (0#256 : Elem))).get i).get j = 0 := by
  rw [get_replicate, get_replicate]
  rfl

/-- What either reset leaves, and `State.reset`, differ in the model's own fields only. -/
theorem reset_cases {s t : State}
    (h : runEvent .hardReset s = .next t ∨ busWrite 0x0C 4 1 s = .next t ∨ t = State.reset) :
    ∃ cfg script rdata, t = { State.reset with cfg := cfg, script := script, rdata := rdata } := by
  obtain ⟨hwrite, hreset, -⟩ := resetAndClearError s
  rcases h with h | h | rfl
  · rw [hreset] at h
    cases h
    exact ⟨_, _, _, rfl⟩
  · rw [hwrite 1 (.inl rfl)] at h
    cases h
    exact ⟨_, _, _, rfl⟩
  · exact ⟨_, _, _, rfl⟩

/-- Settles O12, from the fields of `State.reset`. -/
theorem resetStateIsZero : Obligations.ResetStateIsZero := by
  intro s t h
  obtain ⟨cfg, script, rdata, rfl⟩ := reset_cases h
  refine ⟨fun r => get_replicate (0#256 : Elem) r.toFin, fun i => get_replicate (0#256 : Elem) i,
    fun k => ?_, rfl, rfl, rfl, rfl, rfl, rfl, rfl, rfl, fun i => get_replicate (0#256 : Elem) i, rfl,
    fun i => get_replicate (0#8 : Byte) i, fun i => get_replicate (0#8 : Byte) i, rfl, rfl, rfl, rfl, rfl,
    rfl, rfl⟩
  have hslot : State.slot { State.reset with cfg := cfg, script := script, rdata := rdata } k =
      Descriptor.cleared := by
    cases k <;> rfl
  rw [hslot]
  exact ⟨rfl, rfl, rfl, rfl, rfl, get_get_replicate, get_get_replicate, get_get_replicate⟩

end Sys2Proof.Machine
end

section
/-! The bus, window by window (spec/20_memory.md R61 to R73): what a read of each window answers, what a
write to it leaves, and which accesses stop. -/

namespace Sys2Proof.Machine

/-! ### Addresses -/

theorem legalAccess_iff {addr n : Nat} :
    legalAccess addr n = true ↔ n = 4 ∧ addr % 4 = 0 ∧ addr ≤ 0xFC := by
  simp [legalAccess, and_assoc]

theorem legalAccess_eq_false_iff {addr n : Nat} :
    legalAccess addr n = false ↔ n ≠ 4 ∨ addr % 4 ≠ 0 ∨ 0xFC < addr := by
  rw [Bool.eq_false_iff, ne_eq, legalAccess_iff]
  omega

theorem reservedOffset_iff {addr : Nat} : reservedOffset addr = true ↔
    0x30 ≤ addr ∧ addr < 0x40 ∨ 0x70 ≤ addr ∧ addr < 0x80 ∨ 0xA0 ≤ addr ∧ addr < 0x100 := by
  simp only [reservedOffset, Bool.or_eq_true, decide_eq_true_eq]
  omega

/-- The `DBUF` and `DOUT` windows hold no reserved offset (R65). -/
theorem not_reserved_of_window {addr : Nat}
    (h : 0x40 ≤ addr ∧ addr < 0x70 ∨ 0x80 ≤ addr ∧ addr < 0xA0) : ¬reservedOffset addr = true := by
  rw [reservedOffset_iff]
  omega

/-- What is neither `STATUS` nor reserved is not read while the unit is busy (R72). -/
theorem readAllowedBusy_eq_false {addr : Nat} (hstatus : addr ≠ 0x04)
    (hreserved : ¬reservedOffset addr = true) : readAllowedBusy addr = false := by
  simp [readAllowedBusy, hstatus, hreserved]

/-- What is neither `CTRL` nor reserved is not written while the unit is busy (R72). -/
theorem writeAllowedBusy_eq_false {addr : Nat} (v : Word) (hctrl : addr ≠ 0x0C)
    (hreserved : ¬reservedOffset addr = true) : writeAllowedBusy addr v = false := by
  simp [writeAllowedBusy, hctrl, hreserved]

/-! ### The word an address reads -/

/-- `CMD`, `CTRL`, the `DBUF` window and the reserved offsets read 0 (R66, R69, R73). -/
theorem readWord_eq_zero (s : State) {addr : Nat}
    (h : addr = 0x00 ∨ addr = 0x0C ∨ 0x30 ≤ addr ∧ addr < 0x80 ∨ 0xA0 ≤ addr) :
    s.readWord addr = 0#32 := by
  unfold State.readWord
  iterate 11 rw [if_neg (by omega)]

/-- A word of the `DOUT` window is made of the four bytes at its offset (R68). -/
theorem readWord_dout (s : State) {i : Nat} (h : i < 32) : s.readWord (0x80 + i) =
    wordOfBytes (s.doutByte i) (s.doutByte (i + 1)) (s.doutByte (i + 2)) (s.doutByte (i + 3)) := by
  unfold State.readWord
  iterate 10 rw [if_neg (by omega)]
  rw [if_pos (by omega), Nat.add_sub_cancel_left]

/-- The first byte of a bus word is its low one (R61). -/
theorem wordOfBytes_toNat (b0 b1 b2 b3 : Byte) : (wordOfBytes b0 b1 b2 b3).toNat =
    b0.toNat + b1.toNat * 2 ^ 8 + b2.toNat * 2 ^ 16 + b3.toNat * 2 ^ 24 := by
  simp only [wordOfBytes, toNat_append_eq_add]
  ring

theorem statusWord_getLsbD_zero (s : State) : s.statusWord.getLsbD 0 = s.busy := by
  rw [State.statusWord, BitVec.getLsbD_append]
  simp [bitOfBool]

/-! ### The effect a write to an address has -/

/-- The read-only registers, the `DOUT` window and the reserved offsets ignore a write (R68, R69). -/
theorem writeWord_ignored (s : State) {addr : Nat} (v : Word)
    (h : 0x18 ≤ addr ∧ addr < 0x40 ∨ 0x70 ≤ addr ∨ addr = 0x04 ∨ addr = 0x08) :
    s.writeWord addr v = s := by
  unfold State.writeWord
  iterate 5 rw [if_neg (by omega)]

theorem writeWord_dbuf (s : State) {off : Nat} (v : Word) (h : off < 48) :
    s.writeWord (0x40 + off) v = s.writeDbuf off v := by
  unfold State.writeWord
  iterate 4 rw [if_neg (by omega)]
  rw [if_pos (by omega), Nat.add_sub_cancel_left]

theorem issue_of_err {s : State} (herr : s.err = true) (w : Word) : s.issue w = s := if_pos herr

theorem issue_accepted {s : State} (herr : s.err = false) (w : Word) :
    s.issue w = { s with pending := some w, busy := true, done := false } := by
  simp [State.issue, herr]

/-! ### Accesses that stop -/

/-- A malformed access is a fault of the host, busy or not (R63, R64). -/
theorem busAccess_malformed {addr n : Nat} (h : legalAccess addr n = false) (v : Word) (s : State) :
    busRead addr n s = .fault (.illegalBusAccess addr n) ∧
      busWrite addr n v s = .fault (.illegalBusAccess addr n) := by
  simp [busRead, busWrite, h]

theorem busRead_refused {addr : Nat} {s : State} (hbusy : s.busy = true)
    (hlegal : legalAccess addr 4 = true) (h : readAllowedBusy addr = false) :
    busRead addr 4 s = .refused (.accessWhileBusy addr) := by
  simp [busRead, hlegal, hbusy, h]

theorem busWrite_refused {addr : Nat} {v : Word} {s : State} (hbusy : s.busy = true)
    (hlegal : legalAccess addr 4 = true) (h : writeAllowedBusy addr v = false) :
    busWrite addr 4 v s = .refused (.accessWhileBusy addr) := by
  simp [busWrite, hlegal, hbusy, h]

/-! ### Accesses that answer -/

/-- While the unit is not busy, a legal write takes its effect. -/
theorem busWrite_idle {addr : Nat} {v : Word} {s : State} (hbusy : s.busy = false)
    (hlegal : legalAccess addr 4 = true) : busWrite addr 4 v s = .next (s.writeWord addr v) :=
  busWrite_of_allowed hlegal fun h => absurd h (by simp [hbusy])

/-- A reserved offset reads 0 at any time (R69). -/
theorem readsAs_reserved (s : State) {addr : Nat} (haligned : addr % 4 = 0)
    (h : reservedOffset addr = true) : ReadsAs s addr 0 := by
  have hrange := reservedOffset_iff.mp h
  refine busRead_next_iff.mpr ⟨legalAccess_iff.mpr (by omega), fun _ => ?_, ?_⟩
  · simp [readAllowedBusy, h]
  · rw [readWord_eq_zero s (by omega)]

/-- A reserved offset ignores writes at any time (R69). -/
theorem busWrite_reserved (s : State) (v : Word) {addr : Nat} (haligned : addr % 4 = 0)
    (h : reservedOffset addr = true) : busWrite addr 4 v s = .next s := by
  have hrange := reservedOffset_iff.mp h
  rw [busWrite_of_allowed (legalAccess_iff.mpr (by omega)) fun _ => by simp [writeAllowedBusy, h],
    writeWord_ignored s v (by omega)]

/-- What holds at every aligned reserved offset holds at the 32 of R65. -/
theorem forall_reserved {p : Nat → Prop}
    (h : ∀ addr, addr % 4 = 0 → reservedOffset addr = true → p addr) :
    (∀ w < 4, p (0x30 + 4 * w) ∧ p (0x70 + 4 * w)) ∧ ∀ w < 24, p (0xA0 + 4 * w) :=
  ⟨fun _ _ => ⟨h _ (by omega) (reservedOffset_iff.mpr (by omega)),
    h _ (by omega) (reservedOffset_iff.mpr (by omega))⟩,
    fun _ _ => h _ (by omega) (reservedOffset_iff.mpr (by omega))⟩

/-! ### The obligations -/

/-- Settles O9, window by window. -/
theorem windowReads : Obligations.WindowReads := by
  intro s hbusy
  obtain ⟨hgaps, htail⟩ := forall_reserved fun _ => readsAs_reserved s
  refine ⟨fun w hw => ?dout, fun w hw => ?dbuf, hgaps, htail, ?cmd, ?ctrl⟩
  case dout =>
    refine readsAs_of_toNat hbusy (legalAccess_iff.mpr (by omega)) ?_
    rw [readWord_dout s (by omega), wordOfBytes_toNat]
    simp [Finset.sum_range_succ, State.doutByte]
  case dbuf =>
    refine readsAs_of_toNat hbusy (legalAccess_iff.mpr (by omega)) ?_
    rw [readWord_eq_zero s (by omega), BitVec.toNat_zero]
  case cmd => exact readsAs_of_toNat hbusy rfl rfl
  case ctrl => exact readsAs_of_toNat hbusy rfl rfl

/-- Settles O10, from what a write does at each address. -/
theorem busWrites : Obligations.BusWrites := by
  intro s v hbusy
  have hignored {addr : Nat} (hlegal : legalAccess addr 4 = true)
      (h : 0x18 ≤ addr ∧ addr < 0x40 ∨ 0x70 ≤ addr ∨ addr = 0x04 ∨ addr = 0x08) :
      busWrite addr 4 v s = .next s := by
    rw [busWrite_idle hbusy hlegal, writeWord_ignored s v h]
  obtain ⟨hgaps, htail⟩ := forall_reserved fun _ => busWrite_reserved s v
  refine ⟨fun w hw => ⟨dbufWritten s.dbuf (4 * w) v, dbufWritten_get _ _ _, ?dbuf⟩,
    ⟨_, ?explo, busWrite_idle hbusy rfl⟩, ⟨_, ?exphi, busWrite_idle hbusy rfl⟩, ?readOnly,
    fun w hw => hignored (legalAccess_iff.mpr (by omega)) (by omega), hgaps, htail⟩
  case dbuf =>
    rw [busWrite_idle hbusy (legalAccess_iff.mpr (by omega)), writeWord_dbuf s v (by omega)]
    rfl
  case explo => rw [toNat_append_eq_add, highHalf_toNat]
  case exphi => rw [toNat_append_eq_add, lowHalf_toNat]
  case readOnly =>
    have hlist : ∀ a ∈ [0x04, 0x08, 0x18, 0x1C, 0x20, 0x24, 0x28, 0x2C], legalAccess a 4 = true ∧
        (0x18 ≤ a ∧ a < 0x40 ∨ 0x70 ≤ a ∨ a = 0x04 ∨ a = 0x08) := by decide
    intro a ha
    obtain ⟨hlegal, hrange⟩ := hlist a ha
    exact hignored hlegal hrange

/-- Settles O13: what the busy unit allows answers, the rest is refused; malformed accesses are
faults. -/
theorem busyAndMalformedAccesses : Obligations.BusyAndMalformedAccesses := by
  refine ⟨fun s hbusy => ?_, fun s a n v h => busAccess_malformed (legalAccess_eq_false_iff.mpr h) v s⟩
  have hread {a : Nat} (hlegal : legalAccess a 4 = true) (hstatus : a ≠ 0x04)
      (hreserved : ¬reservedOffset a = true) : busRead a 4 s = .refused (.accessWhileBusy a) :=
    busRead_refused hbusy hlegal (readAllowedBusy_eq_false hstatus hreserved)
  have hwrite (v : Word) {a : Nat} (hlegal : legalAccess a 4 = true) (hctrl : a ≠ 0x0C)
      (hreserved : ¬reservedOffset a = true) : busWrite a 4 v s = .refused (.accessWhileBusy a) :=
    busWrite_refused hbusy hlegal (writeAllowedBusy_eq_false v hctrl hreserved)
  obtain ⟨hgapReads, htailReads⟩ := forall_reserved fun _ => readsAs_reserved s
  refine ⟨⟨s.statusWord, (statusWord_getLsbD_zero s).trans hbusy, ?status⟩, ?registers,
    fun w hw => hread (legalAccess_iff.mpr (by omega)) (by omega) (not_reserved_of_window (by omega)),
    fun w hw => hread (legalAccess_iff.mpr (by omega)) (by omega) (not_reserved_of_window (by omega)),
    hgapReads, htailReads, fun v => ?writes⟩
  case status => exact busRead_next_iff.mpr ⟨rfl, fun _ => rfl, rfl⟩
  case registers =>
    have hlist : ∀ a ∈ [0x00, 0x08, 0x0C, 0x10, 0x14, 0x18, 0x1C, 0x20, 0x24, 0x28, 0x2C],
        legalAccess a 4 = true ∧ a ≠ 0x04 ∧ ¬reservedOffset a = true := by decide
    intro a ha
    obtain ⟨hlegal, hstatus, hreserved⟩ := hlist a ha
    exact hread hlegal hstatus hreserved
  case writes =>
    obtain ⟨hgapWrites, htailWrites⟩ := forall_reserved fun _ => busWrite_reserved s v
    refine ⟨fun a ha => ?_,
      fun w hw => hwrite v (legalAccess_iff.mpr (by omega)) (by omega) (not_reserved_of_window (by omega)),
      hgapWrites, htailWrites, fun hv => ?_⟩
    · have hlist : ∀ a ∈ [0x00, 0x10, 0x14],
          legalAccess a 4 = true ∧ a ≠ 0x0C ∧ ¬reservedOffset a = true := by decide
      obtain ⟨hlegal, hctrl, hreserved⟩ := hlist a ha
      exact hwrite v hlegal hctrl hreserved
    · refine busWrite_refused hbusy rfl ?_
      simpa [writeAllowedBusy, reservedOffset] using hv

/-- Settles O6: a write to `CMD` is a command issue. -/
theorem commandIssue : Obligations.CommandIssue := by
  intro s w hbusy
  have hcmd : busWrite 0x00 4 w s = .next (s.issue w) := busWrite_idle hbusy rfl
  exact ⟨fun herr => by rw [hcmd, issue_of_err herr], fun herr => by rw [hcmd, issue_accepted herr]⟩

end Sys2Proof.Machine
end

section
/-! The completion step (spec/20_memory.md R71, R83): which command it runs, and that every command
completes. -/

namespace Sys2Proof.Machine

/-! ### The pending command -/

theorem unitTurn_of_decodes {s : State} {w : Word} {i : Instr} (hpending : s.pending = some w)
    (hdecode : decodeWord w = .ok i) : unitTurn s = exec i s := by
  simp [unitTurn, completeWord, hpending, hdecode]

theorem step_of_wait {s : State} {es : List Event} (h : s.script = .wait :: es) :
    step s = unitTurn { s with script := es } := by
  simp [step, h, runEvent]

theorem step_of_empty_script {s : State} (h : s.script = []) : step s = unitTurn s := by
  simp [step, h]

theorem withFetchWord_toNat (s : State) (w : Word) : s.withFetchWord 32 w.toNat = s.withPending w := by
  rw [State.withFetchWord, Nat.mod_eq_of_lt w.isLt, BitVec.ofNat_toNat, BitVec.setWidth_eq]

/-- Settles O5: the unit's turn comes with a wait or an empty script, and `withFetchWord` puts a wait
first. -/
theorem stepRunsDecodedCommand : Obligations.StepRunsDecodedCommand := by
  refine ⟨fun s w i es hscript hpending hdecode => ?wait, fun s w i hscript hpending hdecode => ?empty,
    fun s w i hdecode => ?fetch⟩
  case wait => exact (step_of_wait hscript).trans (unitTurn_of_decodes hpending hdecode)
  case empty => rw [step_of_empty_script hscript, unitTurn_of_decodes hpending hdecode]
  case fetch =>
    rw [withFetchWord_toNat, step_of_wait rfl, unitTurn_of_decodes rfl hdecode]
    rfl

/-! ### Every command completes -/

/-- Every command ends in the common completion of its rule. -/
theorem exec_eq_finish (i : Instr) (s : State) : ∃ r, exec i s = finish s r := by
  unfold exec
  split <;> exact ⟨_, rfl⟩

theorem exec_answers (i : Instr) (s : State) : ∃ t, exec i s = .next t := by
  obtain ⟨r, hr⟩ := exec_eq_finish i s
  rw [hr]
  exact finish_answers s r

theorem installSlot_environment (s : State) (k : Slot) (d : Descriptor) :
    (s.installSlot k d).cfg = s.cfg ∧ (s.installSlot k d).script = s.script ∧
      (s.installSlot k d).rdata = s.rdata := by
  unfold State.installSlot
  split <;> split <;> simp

/-- No command touches the model's own fields: the configuration, the script, the last read. -/
theorem Effect.environment_kept {s u : State} {i : Instr} (h : Effect s i u) :
    u.cfg = s.cfg ∧ u.script = s.script ∧ u.rdata = s.rdata := by
  cases h with
  | slot => exact installSlot_environment s _ _
  | key => simp
  | streamReg _ _ hks => rw [nextKs_frame hks]; exact ⟨rfl, rfl, rfl⟩
  | streamOut _ hks => rw [nextKs_frame hks]; exact ⟨rfl, rfl, rfl⟩
  | _ => exact ⟨rfl, rfl, rfl⟩

/-- Settles O57: a command answers, and its completion is the recorded error or one of its effects. -/
theorem everyCommandCompletes : Obligations.EveryCommandCompletes := by
  intro i s
  obtain ⟨t, ht⟩ := exec_answers i s
  refine ⟨t, ht, ?_⟩
  rcases exec_completed ht with ⟨e, rfl⟩ | ⟨u, hu, rfl⟩
  · exact ⟨rfl, rfl, rfl, rfl, rfl, rfl⟩
  · exact ⟨rfl, rfl, rfl, hu.environment_kept⟩

end Sys2Proof.Machine
end

section
/-! The length of what the SHAKE256 companion answers (spec/20_memory.md R75). -/

namespace Sys2Proof.Machine

theorem squeezeBlock_length (a : Keccak) : (squeezeBlock a).length = shakeRate := by
  simp [squeezeBlock, leBytes_length, shakeRate]

theorem shakeSqueeze_length (n : Nat) (a : Keccak) : (shakeSqueeze n a).length = n * shakeRate := by
  induction n generalizing a with
  | zero => rw [Nat.zero_mul]; rfl
  | succ n ih => rw [shakeSqueeze, List.length_append, squeezeBlock_length, ih]; ring

/-- The blocks squeezed hold at least the n bytes asked for. -/
theorem shake256_length (seed : List Byte) (n : Nat) : (shake256 seed n).length = n := by
  simp only [shake256, List.length_take, shakeSqueeze_length, shakeRate]
  omega

/-- Settles O29. -/
theorem shakeAnswersExactly : Obligations.ShakeAnswersExactly :=
  fun seed n => ⟨shake256 seed n, rfl, shake256_length seed n⟩

end Sys2Proof.Machine
end

section
/-! The five formats of a command word (spec/30_encoding.md R90 to R95): a word is the word of a format
exactly when each of its fields, the must-be-zero fields too, is the operand at that place. -/

namespace Sys2Proof.Machine

/-! ### Fields and concatenation -/

theorem extractLsb'_eq_append_iff {v a n m : Nat} {w : BitVec v} {x : BitVec n} {y : BitVec m} :
    w.extractLsb' a (n + m) = x ++ y ↔ w.extractLsb' (a + m) n = x ∧ w.extractLsb' a m = y := by
  rw [← BitVec.extractLsb'_append_extractLsb'_eq_extractLsb' rfl]
  constructor
  · intro h
    constructor
    · simpa [BitVec.extractLsb'_append_eq_left] using congrArg (BitVec.extractLsb' m n) h
    · simpa [BitVec.extractLsb'_append_eq_right] using congrArg (BitVec.extractLsb' 0 m) h
  · rintro ⟨rfl, rfl⟩
    rfl

@[simp] theorem slotOfBit_bitOfSlot (k : Slot) : slotOfBit (bitOfSlot k) = k := by
  cases k <;> rfl

@[simp] theorem bitOfSlot_pd0 : bitOfSlot .pd0 = 0#1 := rfl

@[simp] theorem bitOfSlot_fieldK (w : Word) : bitOfSlot (fieldK w) = w.extractLsb' 19 1 := by
  have bit : ∀ b : BitVec 1, bitOfSlot (slotOfBit b) = b := by decide
  exact bit _

theorem fieldK_of_bit {w : Word} {k : Slot} (h : w.extractLsb' 19 1 = bitOfSlot k) :
    fieldK w = k := by
  rw [fieldK, h, slotOfBit_bitOfSlot]

/-! ### When a word is the word of a format -/

theorem eq_encR_iff {op : BitVec 8} {rd ra rb : BitVec 4} {w : Word} :
    w = encR op rd ra rb ↔ fieldOp w = op ∧ fieldRd w = rd ∧ fieldRa w = ra ∧ fieldRb w = rb ∧
      w.extractLsb' 0 12 = 0#12 :=
  calc w = encR op rd ra rb
    _ ↔ w.extractLsb' 0 (8 + 4 + 4 + 4 + 12) = op ++ rd ++ ra ++ rb ++ 0#12 := by
      rw [BitVec.extractLsb'_eq_self, encR]
    _ ↔ _ := by simp only [extractLsb'_eq_append_iff, and_assoc]; rfl

theorem eq_encI_iff {op : BitVec 8} {rd : BitVec 4} {imm : BitVec 16} {w : Word} :
    w = encI op rd imm ↔
      fieldOp w = op ∧ fieldRd w = rd ∧ fieldRa w = 0#4 ∧ fieldImm16 w = imm :=
  calc w = encI op rd imm
    _ ↔ w.extractLsb' 0 (8 + 4 + 4 + 16) = op ++ rd ++ 0#4 ++ imm := by
      rw [BitVec.extractLsb'_eq_self, encI]
    _ ↔ _ := by simp only [extractLsb'_eq_append_iff, and_assoc]; rfl

theorem eq_encB_iff {op : BitVec 8} {r : BitVec 4} {len : BitVec 6} {w : Word} :
    w = encB op r len ↔
      fieldOp w = op ∧ fieldRd w = r ∧ w.extractLsb' 6 14 = 0#14 ∧ fieldLen w = len :=
  calc w = encB op r len
    _ ↔ w.extractLsb' 0 (8 + 4 + 14 + 6) = op ++ r ++ 0#14 ++ len := by
      rw [BitVec.extractLsb'_eq_self, encB]
    _ ↔ _ := by simp only [extractLsb'_eq_append_iff, and_assoc]; rfl

theorem eq_encD_iff {op : BitVec 8} {kb m cap : BitVec 4} {k : Slot} {mode : BitVec 1} {w : Word} :
    w = encD op kb k mode m cap ↔
      fieldOp w = op ∧ fieldRd w = kb ∧ w.extractLsb' 19 1 = bitOfSlot k ∧ fieldMode w = mode ∧
        w.extractLsb' 12 6 = 0#6 ∧ fieldI w = m ∧ fieldJ w = cap ∧ w.extractLsb' 0 4 = 0#4 :=
  calc w = encD op kb k mode m cap
    _ ↔ w.extractLsb' 0 (8 + 4 + 1 + 1 + 6 + 4 + 4 + 4) =
        op ++ kb ++ bitOfSlot k ++ mode ++ 0#6 ++ m ++ cap ++ 0#4 := by
      rw [BitVec.extractLsb'_eq_self, encD]
    _ ↔ _ := by simp only [extractLsb'_eq_append_iff, and_assoc]; rfl

theorem eq_encP_iff {op : BitVec 8} {r i j : BitVec 4} {k : Slot} {t : BitVec 7} {w : Word} :
    w = encP op r k t i j ↔
      fieldOp w = op ∧ fieldRd w = r ∧ w.extractLsb' 19 1 = bitOfSlot k ∧ fieldT w = t ∧
        fieldI w = i ∧ fieldJ w = j ∧ w.extractLsb' 0 4 = 0#4 :=
  calc w = encP op r k t i j
    _ ↔ w.extractLsb' 0 (8 + 4 + 1 + 7 + 4 + 4 + 4) =
        op ++ r ++ bitOfSlot k ++ t ++ i ++ j ++ 0#4 := by
      rw [BitVec.extractLsb'_eq_self, encP]
    _ ↔ _ := by simp only [extractLsb'_eq_append_iff, and_assoc]; rfl

/-! ### The fields of the word of a format -/

theorem fields_encR (op : BitVec 8) (rd ra rb : BitVec 4) :
    fieldOp (encR op rd ra rb) = op ∧ fieldRd (encR op rd ra rb) = rd ∧
      fieldRa (encR op rd ra rb) = ra ∧ fieldRb (encR op rd ra rb) = rb := by
  obtain ⟨hop, hrd, hra, hrb, -⟩ := eq_encR_iff.mp (rfl : encR op rd ra rb = _)
  exact ⟨hop, hrd, hra, hrb⟩

theorem fields_encI (op : BitVec 8) (rd : BitVec 4) (imm : BitVec 16) :
    fieldOp (encI op rd imm) = op ∧ fieldRd (encI op rd imm) = rd ∧
      fieldImm16 (encI op rd imm) = imm := by
  obtain ⟨hop, hrd, -, himm⟩ := eq_encI_iff.mp (rfl : encI op rd imm = _)
  exact ⟨hop, hrd, himm⟩

theorem fields_encB (op : BitVec 8) (r : BitVec 4) (len : BitVec 6) :
    fieldOp (encB op r len) = op ∧ fieldRd (encB op r len) = r ∧
      fieldLen (encB op r len) = len := by
  obtain ⟨hop, hr, -, hlen⟩ := eq_encB_iff.mp (rfl : encB op r len = _)
  exact ⟨hop, hr, hlen⟩

theorem fields_encD (op : BitVec 8) (kb : BitVec 4) (k : Slot) (mode : BitVec 1) (m cap : BitVec 4) :
    fieldOp (encD op kb k mode m cap) = op ∧ fieldRd (encD op kb k mode m cap) = kb ∧
      fieldK (encD op kb k mode m cap) = k ∧ fieldMode (encD op kb k mode m cap) = mode ∧
      fieldI (encD op kb k mode m cap) = m ∧ fieldJ (encD op kb k mode m cap) = cap := by
  obtain ⟨hop, hkb, hk, hmode, -, hm, hcap, -⟩ :=
    eq_encD_iff.mp (rfl : encD op kb k mode m cap = _)
  exact ⟨hop, hkb, fieldK_of_bit hk, hmode, hm, hcap⟩

theorem fields_encP (op : BitVec 8) (r : BitVec 4) (k : Slot) (t : BitVec 7) (i j : BitVec 4) :
    fieldOp (encP op r k t i j) = op ∧ fieldRd (encP op r k t i j) = r ∧
      fieldK (encP op r k t i j) = k ∧ fieldT (encP op r k t i j) = t ∧
      fieldI (encP op r k t i j) = i ∧ fieldJ (encP op r k t i j) = j := by
  obtain ⟨hop, hr, hk, ht, hi, hj, -⟩ := eq_encP_iff.mp (rfl : encP op r k t i j = _)
  exact ⟨hop, hr, fieldK_of_bit hk, ht, hi, hj⟩

end Sys2Proof.Machine
end

section
/-! The opcode map and the decoder (spec/30_encoding.md R100 to R102).  Opcode and `mode` bit choose one
row (`rowKey`); a word of a row is the word of the command the decoder reads from it (`Candidate`); so
the legal words are the words of the well-formed commands (`decodeWord_eq_ok_iff`). -/

namespace Sys2Proof.Laws

open EncodesItsRow in
theorem encode_covered (i : Instr) : i.row.covers (encode i) = true :=
  Instr.rec (motive := Statement) nop fzero fone fmov fldi fld fldw fst feq fadd fsub fneg fmul fsqr
    fpow5 finv fpow fpowu pdinitH pdinitC pdclr pdrdm pdrdmi pdrdk pdrdai vzero vld vst vaddk vsubk
    vpowa vpowai vmds vmdsi psub psubi perm permi hinit habs hfin hsqz ckey cnonce cenc cdec cencb
    cdecb i

end Sys2Proof.Laws

namespace Sys2Proof.Machine

/-! ### The rows -/

theorem encode_and_mask (i : Instr) : encode i &&& i.row.mask = i.row.value :=
  beq_iff_eq.mp (Laws.encode_covered i)

theorem row_mem (i : Instr) : i.row ∈ opcodeMap := by
  cases i <;> simp [Instr.row, opcodeMap]

/-- A field whose bits the mask fixes is that field of the match word. -/
theorem field_of_and_mask {w mask value : Word} {a n : Nat} (h : w &&& mask = value)
    (hmask : mask.extractLsb' a n = BitVec.allOnes n) :
    w.extractLsb' a n = value.extractLsb' a n := by
  rw [← h, BitVec.extractLsb'_and, hmask, BitVec.and_allOnes]

/-- What chooses the row of a word: its opcode, and for 0x20 the bit `mode` (R101 steps 1 and 2). -/
def rowKey (w : Word) : Nat × BitVec 1 :=
  ((fieldOp w).toNat, if (fieldOp w).toNat = 0x20 then fieldMode w else 0#1)

theorem rowKey_of_op {w : Word} {n : Nat} (h : (fieldOp w).toNat = n) :
    rowKey w = (n, if n = 0x20 then fieldMode w else 0#1) := by
  rw [rowKey, h]

/-- Every mask of the map fixes the bits of the row key. -/
theorem rowKey_of_and_mask {r : MatchMask} {w : Word} (hr : r ∈ opcodeMap)
    (h : w &&& r.mask = r.value) : rowKey w = rowKey r.value := by
  have fixed : ∀ r ∈ opcodeMap, r.mask.extractLsb' 24 8 = BitVec.allOnes 8 ∧
      ((fieldOp r.value).toNat = 0x20 → r.mask.extractLsb' 18 1 = BitVec.allOnes 1) := by
    decide
  obtain ⟨hop, hmode⟩ := fixed r hr
  have op_eq : fieldOp w = fieldOp r.value := field_of_and_mask h hop
  rw [rowKey, rowKey, op_eq]
  split
  next h20 => rw [fieldMode, field_of_and_mask h (hmode h20), fieldMode]
  next => rfl

/-- The 47 opcodes of the map (R102 (a)). -/
theorem rowKey_fst_mem {r : MatchMask} (hr : r ∈ opcodeMap) : (rowKey r.value).1 ∈
    [0x00, 0x01, 0x02, 0x03, 0x04, 0x05, 0x06, 0x07, 0x08, 0x10, 0x11, 0x12, 0x13, 0x14, 0x15, 0x16,
      0x17, 0x18, 0x20, 0x21, 0x22, 0x23, 0x24, 0x25, 0x28, 0x29, 0x2A, 0x2B, 0x2C, 0x2D, 0x2E, 0x2F,
      0x30, 0x31, 0x32, 0x33, 0x34, 0x40, 0x41, 0x42, 0x43, 0x50, 0x51, 0x52, 0x53, 0x54, 0x55] := by
  revert r
  decide

theorem rowKey_value_injective {r r' : MatchMask} (hr : r ∈ opcodeMap) (hr' : r' ∈ opcodeMap)
    (h : rowKey r.value = rowKey r'.value) : r = r' := by
  have keys_distinct : (opcodeMap.map fun r => rowKey r.value).Nodup := by decide
  exact List.inj_on_of_nodup_map keys_distinct hr hr' h

theorem rows_disjoint {w : Word} {r r' : MatchMask} (hr : r ∈ opcodeMap) (hr' : r' ∈ opcodeMap)
    (h : w &&& r.mask = r.value) (h' : w &&& r'.mask = r'.value) : r = r' :=
  rowKey_value_injective hr hr' ((rowKey_of_and_mask hr h).symm.trans (rowKey_of_and_mask hr' h'))

/-! ### The checks after the choice of the row -/

theorem keyRange_eq_ok_iff {i j : Instr} : keyRange i = .ok j ↔ i = j ∧ i.WellFormed := by
  unfold keyRange Instr.WellFormed
  split <;> simp [*]

theorem checkRow_bind_keyRange {w : Word} {i : Instr} (h : i.WellFormed) :
    checkRow w i >>= keyRange = checkRow w i := by
  unfold checkRow
  split
  · exact if_pos h
  · rfl

theorem checkRow_bind_eq_ok {w : Word} {i j : Instr} (h : checkRow w i >>= keyRange = .ok j) :
    w &&& i.row.mask = i.row.value ∧ i = j ∧ i.WellFormed := by
  unfold checkRow at h
  split at h
  next hrow => exact ⟨beq_iff_eq.mp hrow, keyRange_eq_ok_iff.mp h⟩
  next => cases h

/-! ### The decoder on an encoded command -/

theorem decodeWord_encode_eq_checkRow (i : Instr) :
    decodeWord (encode i) = checkRow (encode i) i >>= keyRange := by
  cases i with
  | pdinitC => simp [encode, decodeWord, fields_encD]
  | _ =>
    rw [checkRow_bind_keyRange rfl]
    simp [encode, decodeWord, fields_encR, fields_encI, fields_encB, fields_encD, fields_encP]

theorem decodeWord_encode (i : Instr) : decodeWord (encode i) = keyRange i := by
  rw [decodeWord_encode_eq_checkRow, checkRow, Laws.encode_covered]
  rfl

/-! ### The command the decoder reads from a word -/

/-- The decoder reads `i` from `w` before it checks the row and the key range (R101 steps 1 to 4). -/
structure Candidate (w : Word) (i : Instr) : Prop where
  key : rowKey w = rowKey i.row.value
  decode : decodeWord w = checkRow w i >>= keyRange
  rebuild : w &&& i.row.mask = i.row.value → w = encode i

/-- One case per opcode: the operands are fields of the word, and what the row's mask fixes is as the
command's format has it. -/
theorem exists_candidate_or_unassigned (w : Word) : (∃ i, Candidate w i) ∨
    (decodeWord w = .error .unassignedOpcode ∧ ∀ r ∈ opcodeMap, rowKey w ≠ rowKey r.value) := by
  generalize h : decodeWord w = d
  have hd := h
  unfold decodeWord at h
  split at h
  case h_19 hop => -- opcode 0x20: the bit `mode` chooses between the two rows
    left
    split at h
    next hmode =>
      refine ⟨_, ?_, hd.trans (h.symm.trans (checkRow_bind_keyRange rfl).symm), fun hrow => ?_⟩
      · rw [rowKey_of_op hop, hmode]
        simp [rowKey, fieldOp, fieldMode, Instr.row]
      · simp only [Instr.row] at hrow
        simp [encode, eq_encD_iff, fieldOp, fieldRd, fieldMode, field_of_and_mask hrow]
    next hmode =>
      refine ⟨_, ?_, hd.trans h.symm, fun hrow => ?_⟩
      · rw [rowKey_of_op hop, (BitVec.eq_zero_or_eq_one (fieldMode w)).resolve_left hmode]
        simp [rowKey, fieldOp, fieldMode, Instr.row]
      · simp only [Instr.row] at hrow
        simp [encode, eq_encD_iff, fieldOp, fieldMode, fieldJ, field_of_and_mask hrow]
  case h_48 => -- no assigned opcode
    refine .inr ⟨h.symm, fun r hr hkey => ?_⟩
    have assigned := rowKey_fst_mem hr
    rw [← hkey, rowKey] at assigned
    simp_all
  all_goals
    rename_i hop
    refine .inl
      ⟨_, ?_, hd.trans (h.symm.trans (checkRow_bind_keyRange rfl).symm), fun hrow => ?_⟩
    · rw [rowKey_of_op hop]
      simp [rowKey, fieldOp, Instr.row]
    · simp only [Instr.row] at hrow
      simp [encode, eq_encR_iff, eq_encI_iff, eq_encB_iff, eq_encP_iff, fieldOp, fieldRd, fieldRa,
        fieldRb, fieldT, fieldI, fieldJ, field_of_and_mask hrow]

/-- Every word of a row is the word of a command of that row. -/
theorem exists_encode_of_and_mask {w : Word} {r : MatchMask} (hr : r ∈ opcodeMap)
    (h : w &&& r.mask = r.value) : ∃ i, i.row = r ∧ w = encode i := by
  have hkey := rowKey_of_and_mask hr h
  rcases exists_candidate_or_unassigned w with ⟨i, hi⟩ | ⟨-, hunassigned⟩
  · have hrow : i.row = r := rowKey_value_injective (row_mem i) hr (hi.key.symm.trans hkey)
    exact ⟨i, hrow, hi.rebuild (hrow ▸ h)⟩
  · exact absurd hkey (hunassigned r hr)

/-- The legal words are the words of the well-formed commands. -/
theorem decodeWord_eq_ok_iff {w : Word} {i : Instr} :
    decodeWord w = .ok i ↔ w = encode i ∧ i.WellFormed := by
  constructor
  · intro h
    rcases exists_candidate_or_unassigned w with ⟨j, hj⟩ | ⟨herror, -⟩
    · obtain ⟨hrow, rfl, hwf⟩ := checkRow_bind_eq_ok (hj.decode.symm.trans h)
      exact ⟨hj.rebuild hrow, hwf⟩
    · rw [herror] at h
      cases h
  · rintro ⟨rfl, hwf⟩
    rw [decodeWord_encode, keyRange_eq_ok_iff]
    exact ⟨rfl, hwf⟩

/-! ### The illegal words (R102) -/

theorem decodeWord_error_iff {w : Word} :
    (∃ e, decodeWord w = .error e) ↔ ¬ ∃ i, w = encode i ∧ i.WellFormed := by
  simp only [← decodeWord_eq_ok_iff]
  cases decodeWord w <;> simp

/-- R102 (c) on an encoded command: only `PDINIT.C` can have a key range that wraps. -/
theorem keyWrap_encode_iff (i : Instr) :
    (encode i &&& 0xFF07F0FF#32 = 0x20040000#32 ∧
      16 < (fieldRd (encode i)).toNat + (fieldI (encode i)).toNat) ↔ ¬ i.WellFormed := by
  constructor
  · rintro ⟨hmask, hwrap⟩
    have hrow : i.row = ⟨0x20040000#32, 0xFF07F0FF#32⟩ :=
      rows_disjoint (row_mem i) (by decide) (encode_and_mask i) hmask
    cases i with
    | pdinitC k m kb => simpa [encode, fields_encD, Instr.wellFormed] using hwrap
    | _ => simp [Instr.row] at hrow
  · intro hwf
    cases i with
    | pdinitC k m kb =>
      exact ⟨encode_and_mask (.pdinitC k m kb),
        by simpa [encode, fields_encD, Instr.wellFormed] using hwf⟩
    | _ => exact absurd rfl hwf

theorem illegalWord_iff {w : Word} : IllegalWord w ↔ ¬ ∃ i, w = encode i ∧ i.WellFormed := by
  constructor
  · rintro (hnone | hwrap) ⟨i, rfl, hwf⟩
    · exact hnone i.row (row_mem i) (encode_and_mask i)
    · exact (keyWrap_encode_iff i).mp hwrap hwf
  · intro hillegal
    by_cases hrow : ∃ r ∈ opcodeMap, w &&& r.mask = r.value
    · obtain ⟨r, hr, h⟩ := hrow
      obtain ⟨i, -, rfl⟩ := exists_encode_of_and_mask hr h
      exact .inr ((keyWrap_encode_iff i).mpr fun hwf => hillegal ⟨i, rfl, hwf⟩)
    · exact .inl fun r hr h => hrow ⟨r, hr, h⟩

/-! ### The obligations -/

/-- Settles O1, by the characterisation of the legal words. -/
theorem decodeOfEncode : Obligations.DecodeOfEncode :=
  fun _ hwf => decodeWord_eq_ok_iff.mpr ⟨rfl, hwf⟩

/-- Settles O2, by the characterisation of the legal words. -/
theorem encodeOfDecode : Obligations.EncodeOfDecode := by
  intro w i h
  obtain ⟨hw, hwf⟩ := decodeWord_eq_ok_iff.mp h
  exact ⟨hw.symm, hwf⟩

/-- Settles O3: two rows of one word have one row key, and legal words are encoded commands. -/
theorem illegalWordsExactly : Obligations.IllegalWordsExactly :=
  ⟨fun _ _ hr _ hr' => rows_disjoint hr hr',
    fun _ => decodeWord_error_iff.trans illegalWord_iff.symm⟩

/-- Settles O4: each word is the word of its command, one written-out concatenation apiece. -/
theorem writtenWordsDecode : Obligations.WrittenWordsDecode := by
  refine ⟨?nop, ?fadd, ?fldi, ?fld, ?pdinitC, ?pdrdk, ?hsqz, ?cdecb⟩
  all_goals exact decodeWord_eq_ok_iff.mpr ⟨by decide, rfl⟩

end Sys2Proof.Machine
end

section
/-! The 256-bit sum and difference (spec/40_bigint.md R121, R122): the flag holds what the 256-bit
result leaves out of the integer sum or difference. -/

namespace Sys2Proof.Machine

/-- R121: the carry out is `(a + b) div 2^256`. -/
theorem addWithCarry_carry_toNat (a b : BigInt256) :
    (addWithCarry a b).2.toNat = (a.toNat + b.toNat) / 2 ^ 256 := by
  have ha := a.isLt
  have hb := b.isLt
  unfold addWithCarry
  by_cases hcarry : 2 ^ 256 ≤ a.toNat + b.toNat
  · rw [decide_eq_true hcarry, Bool.toNat_true]
    omega
  · rw [decide_eq_false hcarry, Bool.toNat_false, Nat.div_eq_of_lt (not_le.mp hcarry)]

/-- R122 with its borrow: the difference is computed from `2^256 + a`. -/
theorem subWithBorrow_diff_of_lt {a b : BigInt256} (hlt : a.toNat < b.toNat) :
    (subWithBorrow a b).1.toNat + b.toNat = a.toNat + 2 ^ 256 := by
  have hb := b.isLt
  have hdiff : (subWithBorrow a b).1.toNat = 2 ^ 256 - (b.toNat - a.toNat) :=
    BitVec.toNat_sub_of_lt (BitVec.lt_def.mpr hlt)
  omega

/-- R122 without a borrow: the difference is the one of the integers. -/
theorem subWithBorrow_diff_of_le {a b : BigInt256} (hle : b.toNat ≤ a.toNat) :
    (subWithBorrow a b).1.toNat + b.toNat = a.toNat := by
  have hdiff : (subWithBorrow a b).1.toNat = a.toNat - b.toNat :=
    BitVec.toNat_sub_of_le (BitVec.le_def.mpr hle)
  rw [hdiff, Nat.sub_add_cancel hle]

/-- R121: remainder and quotient by `2^256` make up the sum. -/
theorem addWithCarry_exact (a b : BigInt256) :
    (addWithCarry a b).1.toNat + 2 ^ 256 * (addWithCarry a b).2.toNat = a.toNat + b.toNat := by
  have hsum : (addWithCarry a b).1.toNat = (a.toNat + b.toNat) % 2 ^ 256 := BitVec.toNat_add a b
  rw [hsum, addWithCarry_carry_toNat, Nat.mod_add_div]

/-- R122: the borrow out is 1 exactly when `a < b`. -/
theorem subWithBorrow_exact (a b : BigInt256) :
    (subWithBorrow a b).1.toNat + b.toNat = a.toNat + 2 ^ 256 * (subWithBorrow a b).2.toNat := by
  by_cases hlt : a.toNat < b.toNat
  · have hborrow : (subWithBorrow a b).2 = true := decide_eq_true hlt
    rw [subWithBorrow_diff_of_lt hlt, hborrow, Bool.toNat_true, mul_one]
  · have hborrow : (subWithBorrow a b).2 = false := decide_eq_false hlt
    rw [subWithBorrow_diff_of_le (not_lt.mp hlt), hborrow, Bool.toNat_false, mul_zero, add_zero]

/-- Settles O14, by the exactness of the sum and of the difference. -/
theorem bigIntSumAndDifference : Obligations.BigIntSumAndDifference :=
  fun a b => ⟨addWithCarry_exact a b, subWithBorrow_exact a b⟩

end Sys2Proof.Machine
end

section
/-! The field laws (spec/41_field.md R150).  A canonical element is known by its residue class, and each
field procedure is the operation of ZMod p on the classes, so that a law of the procedures is the law of
the field. -/

namespace Sys2Proof.Machine

/-! ### Canonical elements and their classes -/

/-- Two canonical elements of one class are equal. -/
theorem eq_of_fieldVal_eq {a b : Elem} (ha : Canonical a) (hb : Canonical b)
    (h : fieldVal a = fieldVal b) : a = b := by
  have hmod : a.toNat % P = b.toNat := mod_eq_of_natCast_eq hb h
  rw [Nat.mod_eq_of_lt ha] at hmod
  exact BitVec.eq_of_toNat_eq hmod

@[simp] theorem fieldVal_zero : fieldVal 0#256 = 0 := by simp [fieldVal]

theorem fieldVal_ne_zero {a : Elem} (ha : Canonical a) (h : a ≠ 0#256) : fieldVal a ≠ 0 :=
  fun h0 => h (eq_of_fieldVal_eq ha canonical_zero (h0.trans fieldVal_zero.symm))

/-- R151. -/
theorem fieldVal_fadd {a b : Elem} (ha : Canonical a) (hb : Canonical b) :
    fieldVal (fadd a b) = fieldVal a + fieldVal b := by
  rw [fieldVal_of_toNat_mod (fadd_toNat ha hb), Nat.cast_add, fieldVal, fieldVal]

/-- R167, for an exponent below 2^255. -/
theorem fieldVal_pow (a : Elem) {e : BigInt256} (he : e.toNat < 2 ^ 255) :
    fieldVal (pow a e) = fieldVal a ^ e.toNat := by
  rw [fieldVal_of_toNat_mod (pow_toNat a e he), Nat.cast_pow, fieldVal]

/-! ### Sums -/

theorem fadd_comm {a b : Elem} (ha : Canonical a) (hb : Canonical b) : fadd a b = fadd b a := by
  apply eq_of_fieldVal_eq (fadd_canonical ha hb) (fadd_canonical hb ha)
  rw [fieldVal_fadd ha hb, fieldVal_fadd hb ha, add_comm]

theorem fadd_assoc {a b c : Elem} (ha : Canonical a) (hb : Canonical b) (hc : Canonical c) :
    fadd (fadd a b) c = fadd a (fadd b c) := by
  have hab := fadd_canonical ha hb
  have hbc := fadd_canonical hb hc
  apply eq_of_fieldVal_eq (fadd_canonical hab hc) (fadd_canonical ha hbc)
  rw [fieldVal_fadd hab hc, fieldVal_fadd ha hb, fieldVal_fadd ha hbc, fieldVal_fadd hb hc, add_assoc]

theorem fadd_fneg_self {a : Elem} (ha : Canonical a) : fadd (fneg a) a = 0#256 := by
  have hneg := fneg_canonical ha
  apply eq_of_fieldVal_eq (fadd_canonical hneg ha) canonical_zero
  rw [fieldVal_fadd hneg ha, fieldVal_fneg ha, neg_add_cancel, fieldVal_zero]

/-! ### Products and powers -/

theorem fmul_one {a : Elem} (ha : Canonical a) : fmul a 1#256 = a := by
  apply eq_of_fieldVal_eq (fmul_canonical _ _) ha
  rw [fieldVal_fmul, fieldVal_one, mul_one]

/-- R160: squaring by limbs and the product reduce the same wide value. -/
theorem fsqr_eq_fmul (a : Elem) : fsqr a = fmul a a := congrArg reduce512 (sqrWide_eq a)

/-- R161: the two squarings and the product are five factors. -/
theorem pow5_eq_fmul (a : Elem) : pow5 a = fmul (fmul (fmul (fmul a a) a) a) a := by
  apply eq_of_fieldVal_eq (pow5_canonical a) (fmul_canonical _ _)
  simp only [pow5, fsqr_eq_fmul, fieldVal_fmul, mul_assoc]

/-- Fermat (R150). -/
theorem pow_P_pred [Fact P.Prime] {a : Elem} (ha : Canonical a) (h : a ≠ 0#256) :
    pow a (BitVec.ofNat 256 (P - 1)) = 1#256 := by
  have hexp : (BitVec.ofNat 256 (P - 1)).toNat = P - 1 := by decide
  have hlt : (BitVec.ofNat 256 (P - 1)).toNat < 2 ^ 255 := by decide
  apply eq_of_fieldVal_eq (pow_canonical _ _) canonical_one
  rw [fieldVal_pow a hlt, hexp, ZMod.pow_card_sub_one_eq_one (fieldVal_ne_zero ha h), fieldVal_one]

/-! ### The inverse (R162) -/

theorem finv_zero : finv 0#256 = .error .invalidInput := rfl

theorem finv_of_ne_zero {a : Elem} (h : a ≠ 0#256) : finv a = .ok (inversionChain a) :=
  if_neg fun heq => h ((bigEq_iff a 0#256).mp heq)

theorem fieldVal_mul_inversionChain [Fact P.Prime] {a : Elem} (ha : Canonical a) (h : a ≠ 0#256) :
    fieldVal a * fieldVal (inversionChain a) = 1 := by
  rw [fieldVal_inversionChain, mul_inv_cancel₀ (fieldVal_ne_zero ha h)]

theorem fmul_inversionChain [Fact P.Prime] {a : Elem} (ha : Canonical a) (h : a ≠ 0#256) :
    fmul a (inversionChain a) = 1#256 := by
  apply eq_of_fieldVal_eq (fmul_canonical _ _) canonical_one
  rw [fieldVal_fmul, fieldVal_mul_inversionChain ha h, fieldVal_one]

theorem inversionChain_toNat_mul [Fact P.Prime] {a : Elem} (ha : Canonical a) (h : a ≠ 0#256) :
    (inversionChain a).toNat * a.toNat % P = 1 := by
  apply mod_eq_of_natCast_eq (k := 1) (by decide)
  rw [Nat.cast_mul, Nat.cast_one, mul_comm]
  exact fieldVal_mul_inversionChain ha h

/-! ### Bytes (R155, R156) -/

theorem toBytesLe_length (a : Elem) : (toBytesLe a).length = 32 := toLeBytes32_length a

theorem leNat_toBytesLe (a : Elem) : leNat (toBytesLe a) = a.toNat :=
  calc leNat (toBytesLe a)
      = (fromLeBytes32 (toLeBytes32 a)).toNat := (fromLeBytes32_toNat (toBytesLe_length a)).symm
    _ = a.toNat := by rw [fromLeBytes32_toLeBytes32]

theorem fromBytesLe_toBytesLe {a : Elem} (ha : Canonical a) : fromBytesLe (toBytesLe a) = .ok a := by
  obtain ⟨b, hb, hval⟩ := fromBytesLe_ok (toBytesLe_length a).le
  rw [leNat_toBytesLe, Nat.mod_eq_of_lt ha] at hval
  rw [hb, BitVec.eq_of_toNat_eq hval]

/-- Settles O16, law by law; the inverse and Fermat's power rest on the primality of p. -/
theorem fieldLaws : Obligations.FieldLaws := by
  intro a b c ha hb hc
  have hprime : Fact P.Prime := ⟨Sys2Proof.Laws.P_prime⟩
  have hinv (h : a ≠ 0) : ∃ i, finv a = .ok i ∧ Canonical i ∧ fmul a i = 1 :=
    ⟨inversionChain a, finv_of_ne_zero h, inversionChain_canonical a, fmul_inversionChain ha h⟩
  exact ⟨fadd_comm ha hb, fadd_assoc ha hb hc, fmul_one ha, hinv, fadd_fneg_self ha, pow_P_pred ha,
    fsqr_eq_fmul a, pow5_eq_fmul a, toBytesLe_length a, fromBytesLe_toBytesLe ha⟩

end Sys2Proof.Machine
end

section
/-! `NOP`, the field commands and `PDRDAI` (spec/46_system.md R331, spec/41_field.md R171 to R187,
spec/43_permutation.md R250): the words they encode to, the state each completion step leaves, and with
the values of the field procedures what the registers hold then. -/

namespace Sys2Proof.Machine

/-! ### Words with unused fields (R91, R95) -/

/-- Two zero fields side by side are one. -/
theorem append_zeros_toNat {k : Nat} (x : BitVec k) (n m : Nat) :
    (x ++ 0#n ++ 0#m).toNat = (x ++ 0#(n + m)).toNat := by
  simp [BitVec.toNat_append, Nat.shiftLeft_add]

/-- Format R without `rb`. -/
theorem encR_rd_ra (op : BitVec 8) (rd ra : BitVec 4) :
    encR op rd ra 0#4 = op ++ rd ++ ra ++ 0#16 :=
  BitVec.eq_of_toNat_eq (append_zeros_toNat (op ++ rd ++ ra) 4 12)

/-- Format R without `ra` and `rb`. -/
theorem encR_rd (op : BitVec 8) (rd : BitVec 4) : encR op rd 0#4 0#4 = op ++ rd ++ 0#20 :=
  (encR_rd_ra op rd 0#4).trans (BitVec.eq_of_toNat_eq (append_zeros_toNat (op ++ rd) 4 16))

/-- Format P with the register alone has the bits of format R with the register alone. -/
theorem encP_rd (op : BitVec 8) (rd : BitVec 4) :
    encP op rd .pd0 0#7 0#4 0#4 = op ++ rd ++ 0#20 := by
  apply BitVec.eq_of_toNat_eq
  calc (encP op rd .pd0 0#7 0#4 0#4).toNat
      = (op ++ rd ++ 0#1 ++ 0#7 ++ 0#4 ++ 0#8).toNat :=
        append_zeros_toNat (op ++ rd ++ 0#1 ++ 0#7 ++ 0#4) 4 4
    _ = (op ++ rd ++ 0#1 ++ 0#7 ++ 0#12).toNat := append_zeros_toNat (op ++ rd ++ 0#1 ++ 0#7) 4 8
    _ = (op ++ rd ++ 0#1 ++ 0#19).toNat := append_zeros_toNat (op ++ rd ++ 0#1) 7 12
    _ = (op ++ rd ++ 0#20).toNat := append_zeros_toNat (op ++ rd) 1 19

/-! ### Completion steps without a check: the whole state after the command -/

section Commands
variable (s : State) (rd ra rb : Reg)

theorem exec_nop : exec .nop s = .next (after s) := rfl

theorem exec_fzero : exec (.fzero rd) s = .next (after (withReg s rd 0#256)) := rfl

theorem exec_fone : exec (.fone rd) s = .next (after (withReg s rd 1#256)) := rfl

theorem exec_fmov : exec (.fmov rd ra) s = .next (after (withReg s rd (s.reg ra))) := rfl

theorem exec_fldi (imm16 : BitVec 16) :
    exec (.fldi rd imm16) s = .next (after (withReg s rd (imm16.setWidth 256))) := rfl

theorem exec_pdrdai : exec (.pdrdai rd) s = .next (after (withReg s rd ALPHA_INV)) := rfl

theorem exec_fst : exec (.fst ra) s = .next (after (s.setDout (s.reg ra))) := rfl

theorem exec_feq :
    exec (.feq ra rb) s = .next (after (s.setEq (feq (s.reg ra) (s.reg rb)))) := rfl

theorem exec_fadd : exec (.fadd rd ra rb) s =
    .next (after (withReg s rd (fadd (s.reg ra) (s.reg rb)))) := rfl

theorem exec_fsub : exec (.fsub rd ra rb) s =
    .next (after (withReg s rd (fsub (s.reg ra) (s.reg rb)))) := rfl

theorem exec_fneg : exec (.fneg rd ra) s = .next (after (withReg s rd (fneg (s.reg ra)))) := rfl

theorem exec_fmul : exec (.fmul rd ra rb) s =
    .next (after (withReg s rd (fmul (s.reg ra) (s.reg rb)))) := rfl

theorem exec_fsqr : exec (.fsqr rd ra) s = .next (after (withReg s rd (fsqr (s.reg ra)))) := rfl

theorem exec_fpow5 : exec (.fpow5 rd ra) s = .next (after (withReg s rd (pow5 (s.reg ra)))) := rfl

theorem exec_fpow : exec (.fpow rd ra rb) s =
    .next (after (withReg s rd (pow (s.reg ra) (s.reg rb)))) := rfl

theorem exec_fpowu : exec (.fpowu rd ra) s =
    .next (after (withReg s rd (powU64 (s.reg ra) s.exp))) := rfl

end Commands

/-! ### Completion steps with a check -/

section Checks
variable {s : State} {rd ra : Reg} {len : BitVec 6}

theorem exec_finv_error {e : ErrKind} (h : finv (s.reg ra) = .error e) :
    exec (.finv rd ra) s = .next (afterError s e) := by
  change execFinv rd ra s = _
  rw [execFinv, h, finish_error]

theorem exec_finv_ok {v : Elem} (h : finv (s.reg ra) = .ok v) :
    exec (.finv rd ra) s = .next (after (withReg s rd v)) := by
  change execFinv rd ra s = _
  rw [execFinv, h, withReg_eq]
  exact finish_ok _ _

theorem exec_fld_long (h : 32 < len.toNat) :
    exec (.fld rd len) s = .next (afterError s .invalidInput) := by
  change execFld rd len s = _
  rw [execFld, if_pos h, finish_error]

theorem exec_fld_ok {v : Elem} (hlen : len.toNat ≤ 32)
    (h : fromBytesLe (s.inputBytes len.toNat) = .ok v) :
    exec (.fld rd len) s = .next (after (withReg s rd v)) := by
  change execFld rd len s = _
  rw [execFld, if_neg (not_lt.mpr hlen), h, withReg_eq]
  exact finish_ok _ _

theorem exec_fldw_length (h : len.toNat ≠ 48) :
    exec (.fldw rd len) s = .next (afterError s .invalidInput) := by
  change execFldw rd len s = _
  rw [execFldw, WIDE_BYTES, if_pos h, finish_error]

theorem exec_fldw_ok (h : len.toNat = 48) :
    exec (.fldw rd len) s = .next (after (withReg s rd (wideReduce s.dbuf.toList))) := by
  have hbytes : s.inputBytes 48 = s.dbuf.toList := List.take_of_length_le (by simp)
  change execFldw rd len s = _
  rw [execFldw, WIDE_BYTES, if_neg (not_not.mpr h), hbytes, withReg_eq, finish_ok]

end Checks

/-! ### Values -/

theorem setWidth16_toNat (imm : BitVec 16) : (imm.setWidth 256).toNat = imm.toNat :=
  BitVec.toNat_setWidth_of_le (by decide)

/-- R223: 5 · `ALPHA_INV` is 1 modulo p − 1. -/
theorem five_mul_alphaInv : 5 * ALPHA_INV.toNat = 3 * (P - 1) + 1 := by decide

/-- `DOUT` holds the element's bytes in their order (R32, R156). -/
theorem doutBytes_toList (a : Elem) : (doutBytes a).toList = toBytesLe a := by
  apply List.ext_getElem
  · rw [Vector.length_toList, toBytesLe_length]
  · intro i hi hi'
    have hget := doutBytes_get a ⟨i, by simpa using hi⟩
    rw [List.getD_eq_getElem _ _ hi'] at hget
    simpa [Vector.get] using hget

theorem feq_eq_decide (a b : Elem) : feq a b = decide (a.toNat = b.toNat) := by
  rw [Bool.eq_iff_iff, feq_iff, decide_eq_true_iff, BitVec.toNat_inj]

/-! ### The obligations -/

/-- Settles O22. -/
theorem nopAndConstants : Obligations.NopAndConstants := fun s rd ra imm16 =>
  ⟨exec_nop s, exec_fzero s rd, exec_fone s rd, exec_fmov s rd ra,
    ⟨_, setWidth16_toNat imm16, exec_fldi s rd imm16⟩, ⟨_, five_mul_alphaInv, exec_pdrdai s rd⟩,
    rfl, encR_rd _ rd, encR_rd _ rd, encR_rd_ra _ rd ra, rfl, encP_rd _ rd⟩

/-- Settles O23. -/
theorem addSubtractNegate : Obligations.AddSubtractNegate := fun s rd ra rb ha hb =>
  ⟨⟨_, fadd_toNat ha hb, exec_fadd s rd ra rb⟩, ⟨_, fsub_toNat ha hb, exec_fsub s rd ra rb⟩,
    ⟨_, fneg_toNat ha, exec_fneg s rd ra⟩, rfl, rfl, encR_rd_ra _ rd ra⟩

/-- Settles O24. -/
theorem multiplySquareFifth : Obligations.MultiplySquareFifth := fun s rd ra rb =>
  ⟨⟨_, fmul_toNat _ _, exec_fmul s rd ra rb⟩, ⟨_, fsqr_toNat _, exec_fsqr s rd ra⟩,
    ⟨_, pow5_toNat _, exec_fpow5 s rd ra⟩, rfl, encR_rd_ra _ rd ra, encR_rd_ra _ rd ra⟩

/-- Settles O25; a canonical exponent has the 255 bits the ladder runs over. -/
theorem powers : Obligations.Powers := fun s rd ra rb =>
  ⟨fun hb => ⟨_, pow_toNat _ _ (hb.trans P_lt), exec_fpow s rd ra rb⟩,
    ⟨_, powU64_toNat _ _, exec_fpowu s rd ra⟩, rfl, encR_rd_ra _ rd ra⟩

/-- Settles O26: the error is that of `finv` at 0, the value that of the chain elsewhere. -/
theorem inversion : Obligations.Inversion := by
  intro s rd ra
  have hprime : Fact P.Prime := ⟨Sys2Proof.Laws.P_prime⟩
  refine ⟨fun hzero => ?_, encR_rd_ra _ rd ra, fun hne hcan => ?_⟩
  · exact exec_finv_error (hzero ▸ finv_zero)
  · exact ⟨_, inversionChain_toNat _, inversionChain_toNat_mul hcan hne,
      exec_finv_ok (finv_of_ne_zero hne)⟩

/-- Settles O27: each length check's two outcomes, with the value of the reducing constructor. -/
theorem loadBytes : Obligations.LoadBytes := by
  intro s rd len
  refine ⟨fun hshort => ?_, exec_fld_long, fun hwide => ?_, exec_fldw_length, rfl, rfl⟩
  · have hbytes : (s.inputBytes len.toNat).length ≤ 32 := (List.length_take_le _ _).trans hshort
    obtain ⟨v, hv, hval⟩ := fromBytesLe_ok hbytes
    exact ⟨v, hval, exec_fld_ok hshort hv⟩
  · have hbytes : s.dbuf.toList.length ≤ 48 := s.dbuf.length_toList.le
    exact ⟨_, wideReduce_toNat hbytes, exec_fldw_ok hwide⟩

/-- Settles O28. -/
theorem storeAndCompare : Obligations.StoreAndCompare := by
  intro s ra rb
  have hbytes : leNat (doutBytes (s.reg ra)).toList = (s.reg ra).toNat := by
    rw [doutBytes_toList, leNat_toBytesLe]
  refine ⟨⟨_, hbytes, exec_fst s ra⟩, ?_, encR_rd_ra _ 0#4 ra, rfl⟩
  rw [exec_feq, feq_eq_decide, State.setEq]

end Sys2Proof.Machine
end

section
/-! The matrix operations (spec/42_matrix.md R200 to R205): where row-major storage keeps an entry, what
each accessor and element-wise operation does to it, and the product of two matrices. -/

namespace Sys2Proof.Machine

/-! ### Row-major storage (R200) -/

theorem index_lt {r c i j : Nat} (hi : i < r) (hj : j < c) : i * c + j < r * c := by
  have hrow : (i + 1) * c ≤ r * c := Nat.mul_le_mul_right c hi
  rw [Nat.succ_mul] at hrow
  omega

/-- Two places of a matrix are stored at one index only if they are one place. -/
theorem index_inj {c i i' j j' : Nat} (hj : j < c) (hj' : j' < c) :
    i * c + j = i' * c + j' ↔ i = i' ∧ j = j' := by
  refine ⟨fun h => ?_, fun ⟨hi, hj⟩ => by rw [hi, hj]⟩
  have hcol : j = j' := by
    simpa [Nat.mul_add_mod', Nat.mod_eq_of_lt hj, Nat.mod_eq_of_lt hj'] using congrArg (· % c) h
  refine ⟨Nat.eq_of_mul_eq_mul_right (Nat.zero_lt_of_lt hj) ?_, hcol⟩
  omega

namespace Matrix

theorem wf_iff (a : Matrix) : a.wf = true ↔ a.data.length = a.rows * a.cols := beq_iff_eq

theorem index_lt_length {a : Matrix} (ha : a.wf = true) {i j : Nat} (hi : i < a.rows)
    (hj : j < a.cols) : i * a.cols + j < a.data.length := by
  rw [a.wf_iff.mp ha]
  exact index_lt hi hj

theorem entry_eq_getElem {a : Matrix} {i j : Nat} (h : i * a.cols + j < a.data.length) :
    a.entry i j = a.data[i * a.cols + j] := List.getD_eq_getElem _ _ h

theorem build_data_length (r c : Nat) (f : Nat → Nat → Elem) : (build r c f).data.length = r * c := by
  simp [build, List.length_flatMap]

theorem build_wf (r c : Nat) (f : Nat → Nat → Elem) : (build r c f).wf = true :=
  (wf_iff _).mpr (build_data_length r c f)

/-- One more row is stored after all the others. -/
theorem build_succ_data (r c : Nat) (f : Nat → Nat → Elem) :
    (build (r + 1) c f).data = (build r c f).data ++ (List.range c).map (f r) := by
  simp [build, List.range_succ]

theorem build_entry {r c i j : Nat} (f : Nat → Nat → Elem) (hi : i < r) (hj : j < c) :
    (build r c f).entry i j = f i j := by
  change (build r c f).data.getD (i * c + j) 0#256 = f i j
  induction r with
  | zero => omega
  | succ r ih =>
    rw [build_succ_data]
    rcases Nat.lt_succ_iff_lt_or_eq.mp hi with hlt | rfl
    · have hindex : i * c + j < (build r c f).data.length :=
        (build_data_length r c f).symm ▸ index_lt hlt hj
      rw [List.getD_append _ _ _ _ hindex, ih hlt]
    · rw [List.getD_append_right _ _ _ _ (by rw [build_data_length]; omega), build_data_length,
        Nat.add_sub_cancel_left]
      simp [hj]

end Matrix

/-! ### The accessors (R201) -/

theorem mget_outside {a : Matrix} {i j : Nat} (h : a.rows ≤ i ∨ a.cols ≤ j) :
    mget a i j = .error .indexOutOfRange := if_pos h

theorem mset_outside {a : Matrix} {i j : Nat} (h : a.rows ≤ i ∨ a.cols ≤ j) (v : Elem) :
    mset a i j v = .error .indexOutOfRange := if_pos h

theorem mget_inside {a : Matrix} {i j : Nat} (hi : i < a.rows) (hj : j < a.cols) :
    mget a i j = .ok (a.entry i j) := if_neg (by omega)

theorem mset_inside {a : Matrix} {i j : Nat} (hi : i < a.rows) (hj : j < a.cols) (v : Elem) :
    mset a i j v = .ok { a with data := a.data.set (i * a.cols + j) v } := if_neg (by omega)

/-- The entries of a matrix after one of them was replaced. -/
theorem entry_set {a : Matrix} (ha : a.wf = true) {i j i' j' : Nat} (hi : i < a.rows)
    (hj : j < a.cols) (hj' : j' < a.cols) (v : Elem) :
    ({ a with data := a.data.set (i * a.cols + j) v } : Matrix).entry i' j' =
      if i' = i ∧ j' = j then v else a.entry i' j' := by
  have hin := Matrix.index_lt_length ha hi hj
  have hplace : i * a.cols + j = i' * a.cols + j' ↔ i' = i ∧ j' = j := by
    rw [index_inj hj hj', eq_comm, eq_comm (a := j)]
  simp only [Matrix.entry, List.getD_eq_getElem?_getD, List.getElem?_set, hplace]
  by_cases hsame : i' = i ∧ j' = j
  · simp [hsame, hin]
  · simp [hsame]

theorem mget_set {a : Matrix} (ha : a.wf = true) {i j i' j' : Nat} (hi : i < a.rows)
    (hj : j < a.cols) (hi' : i' < a.rows) (hj' : j' < a.cols) (v : Elem) :
    mget { a with data := a.data.set (i * a.cols + j) v } i' j' =
      if i' = i ∧ j' = j then .ok v else mget a i' j' := by
  rw [mget_inside hi' hj', ← apply_ite Except.ok, ← entry_set ha hi hj hj']
  exact mget_inside hi' hj'

/-! ### Entry by entry: sum, difference, power (R204, R205) -/

theorem madd_mismatch {a b : Matrix} (h : a.rows ≠ b.rows ∨ a.cols ≠ b.cols) :
    madd a b = .error .dimensionMismatch := if_pos h

theorem msub_mismatch {a b : Matrix} (h : a.rows ≠ b.rows ∨ a.cols ≠ b.cols) :
    msub a b = .error .dimensionMismatch := if_pos h

theorem madd_of_shape {a b : Matrix} (hr : a.rows = b.rows) (hc : a.cols = b.cols) :
    madd a b = .ok { a with data := List.zipWith fadd a.data b.data } := if_neg (by simp [hr, hc])

theorem msub_of_shape {a b : Matrix} (hr : a.rows = b.rows) (hc : a.cols = b.cols) :
    msub a b = .ok { a with data := List.zipWith fsub a.data b.data } := if_neg (by simp [hr, hc])

/-- An operation on the data of two matrices of one shape works on their entries. -/
theorem entry_zipWith {a b : Matrix} (ha : a.wf = true) (hb : b.wf = true) (hr : a.rows = b.rows)
    (hc : a.cols = b.cols) (f : Elem → Elem → Elem) {i j : Nat} (hi : i < a.rows) (hj : j < a.cols) :
    ({ a with data := List.zipWith f a.data b.data } : Matrix).entry i j =
      f (a.entry i j) (b.entry i j) := by
  have hia := Matrix.index_lt_length ha hi hj
  have hib := Matrix.index_lt_length hb (hr ▸ hi) (hc ▸ hj)
  have hiz : i * a.cols + j < (List.zipWith f a.data b.data).length := by
    rw [List.length_zipWith]
    exact lt_min hia (hc ▸ hib)
  rw [Matrix.entry_eq_getElem hiz, Matrix.entry_eq_getElem hia, Matrix.entry_eq_getElem hib,
    List.getElem_zipWith]
  simp only [hc]

theorem mpow_entry {a : Matrix} (ha : a.wf = true) (e : BigInt256) {i j : Nat} (hi : i < a.rows)
    (hj : j < a.cols) : (mpow a e).entry i j = pow (a.entry i j) e := by
  have hin := Matrix.index_lt_length ha hi hj
  rw [Matrix.entry_eq_getElem hin]
  simp [mpow, Matrix.entry, hin]

/-! ### The product (R202) -/

theorem sumProducts_succ (n : Nat) (f g : Nat → Elem) :
    sumProducts (n + 1) f g = fadd (sumProducts n f g) (fmul (f n) (g n)) := by
  rw [sumProducts, List.range_succ, List.foldl_append]
  rfl

theorem sumProducts_toNat (n : Nat) (f g : Nat → Elem) :
    (sumProducts n f g).toNat = (∑ t ∈ Finset.range n, (f t).toNat * (g t).toNat) % P := by
  induction n with
  | zero => rfl
  | succ n ih =>
    rw [sumProducts_succ, fadd_toNat (canonical_of_toNat_mod ih) (fmul_canonical _ _), ih, fmul_toNat,
      Finset.sum_range_succ, ← Nat.add_mod]

theorem matmul_mismatch {a b : Matrix} (h : a.cols ≠ b.rows) :
    matmul a b = .error .dimensionMismatch := if_pos h

theorem matmul_of_shape {a b : Matrix} (h : a.cols = b.rows) :
    matmul a b = .ok (Matrix.build a.rows b.cols fun i j =>
      sumProducts a.cols (fun t => a.entry i t) (fun t => b.entry t j)) := if_neg (not_not.mpr h)

/-! ### The obligations -/

/-- Settles O17: the product is built from its entries, each an accumulator loop. -/
theorem matrixProduct : Obligations.MatrixProduct := by
  intro a b
  refine ⟨matmul_mismatch, fun hshape => ?_⟩
  refine ⟨_, matmul_of_shape hshape, rfl, rfl, Matrix.build_wf _ _ _, fun i hi j hj => ?_⟩
  rw [Matrix.build_entry _ hi hj, sumProducts_toNat]

/-- Settles O18, from one lemma per operation and outcome. -/
theorem matrixElementwise : Obligations.MatrixElementwise := by
  intro a b ha hb
  refine ⟨fun i j hout => ⟨mget_outside hout, mset_outside hout⟩, fun i hi j hj v => ?_,
    fun hne => ⟨madd_mismatch hne, msub_mismatch hne⟩, fun hr hc => ?_, fun e => ?_⟩
  · exact ⟨_, mset_inside hi hj v, rfl, rfl, fun i' hi' j' hj' => mget_set ha hi hj hi' hj' v⟩
  · exact ⟨_, _, madd_of_shape hr hc, msub_of_shape hr hc, rfl, rfl, rfl, rfl, fun i hi j hj =>
      ⟨entry_zipWith ha hb hr hc fadd hi hj, entry_zipWith ha hb hr hc fsub hi hj⟩⟩
  · exact ⟨rfl, rfl, fun i hi j hj => mpow_entry ha e hi hj⟩

end Sys2Proof.Machine
end

section
/-! The determinant (spec/42_matrix.md R206, R207).  One round of Gaussian elimination on the first
column takes the determinant to the signed pivot times the determinant of the rows that survive; the
loop of `det` is that round on lists of rows, and its running determinant collects the factors. -/

namespace Sys2Proof.Elimination

variable {K : Type*} [Field K] {n : Nat}

/-- M with the first column cleared outside row q by the pivot of row q. -/
def clearColumn (M : Matrix (Fin (n + 1)) (Fin (n + 1)) K) (q : Fin (n + 1)) :
    Matrix (Fin (n + 1)) (Fin (n + 1)) K :=
  Matrix.of fun i j => if i = q then M q j else M i j - M i 0 * ((M q 0)⁻¹ * M q j)

theorem clearColumn_pivot (M : Matrix (Fin (n + 1)) (Fin (n + 1)) K) (q j : Fin (n + 1)) :
    clearColumn M q q j = M q j := if_pos rfl

theorem clearColumn_other (M : Matrix (Fin (n + 1)) (Fin (n + 1)) K) {q i : Fin (n + 1)} (h : i ≠ q)
    (j : Fin (n + 1)) : clearColumn M q i j = M i j - M i 0 * ((M q 0)⁻¹ * M q j) := if_neg h

theorem clearColumn_first (M : Matrix (Fin (n + 1)) (Fin (n + 1)) K) {q i : Fin (n + 1)}
    (hq : M q 0 ≠ 0) (h : i ≠ q) : clearColumn M q i 0 = 0 := by
  rw [clearColumn_other M h, inv_mul_cancel₀ hq, mul_one, sub_self]

/-- Multiples of row q are taken from the other rows. -/
theorem det_clearColumn (M : Matrix (Fin (n + 1)) (Fin (n + 1)) K) (q : Fin (n + 1)) :
    (clearColumn M q).det = M.det := by
  refine Matrix.det_eq_of_forall_row_eq_smul_add_const
    (fun i => if i = q then 0 else -(M i 0 * (M q 0)⁻¹)) q (if_pos rfl) fun i j => ?_
  by_cases h : i = q
  · rw [if_pos h, h, clearColumn_pivot, zero_mul, add_zero]
  · rw [if_neg h, clearColumn_other M h]
    ring

/-- One round of the elimination: what is left of the matrix when row q, whose first entry is the
pivot, and the first column are gone. -/
theorem det_eq_pivot_mul (M : Matrix (Fin (n + 1)) (Fin (n + 1)) K) {q : Fin (n + 1)}
    (hq : M q 0 ≠ 0) : M.det = (-1) ^ q.val * M q 0 * Matrix.det (Matrix.of fun i j : Fin n =>
      M (q.succAbove i) j.succ - M (q.succAbove i) 0 * ((M q 0)⁻¹ * M q j.succ)) := by
  rw [← det_clearColumn M q, Matrix.det_succ_column_zero, Finset.sum_eq_single q, clearColumn_pivot]
  · congr 2
    ext i j
    exact clearColumn_other M (Fin.succAbove_ne q i) j.succ
  · intro i _ hi
    rw [clearColumn_first M hq hi, mul_zero, zero_mul]
  · exact fun h => absurd (Finset.mem_univ q) h

end Sys2Proof.Elimination

namespace Sys2Proof.Machine

/-! ### Lists of rows as matrices -/

/-- Entry (i, j) of a matrix held as the list of its rows, as a residue class; 0 beyond them. -/
def rowVal (rows : Rows) (i j : Nat) : ZMod P := fieldVal ((rows.getD i []).getD j 0#256)

/-- The n×n matrix over the field that a list of rows holds. -/
def rowsMatrix (n : Nat) (rows : Rows) := Matrix.of fun i j : Fin n => rowVal rows i.val j.val

@[simp] theorem rowsMatrix_apply (n : Nat) (rows : Rows) (i j : Fin n) :
    rowsMatrix n rows i j = rowVal rows i.val j.val := rfl

/-- Every row is of width w and canonical. -/
def RowsWithin (w : Nat) (rows : Rows) : Prop := ∀ r ∈ rows, r.length = w ∧ CanonicalList r

theorem headD_eq_getD (r : List Elem) : r.headD 0#256 = r.getD 0 0#256 := by
  cases r <;> rfl

theorem rowVal_zero (rows : Rows) (i : Nat) :
    rowVal rows i 0 = fieldVal ((rows.getD i []).headD 0#256) := by
  rw [headD_eq_getD, rowVal]

/-- Taking row q out moves the rows after it up by one. -/
theorem getD_remove_row (before after : Rows) (pivot : List Elem) {n : Nat} (q : Fin (n + 1))
    (hq : q.val = before.length) (i : Fin n) :
    (before ++ after).getD i.val [] = (before ++ pivot :: after).getD (q.succAbove i).val [] := by
  rcases lt_or_ge i.val before.length with h | h
  · rw [Fin.succAbove_of_castSucc_lt q i (by rw [Fin.lt_def, hq]; exact h), Fin.val_castSucc,
      List.getD_append _ _ _ _ h, List.getD_append _ _ _ _ h]
  · rw [Fin.succAbove_of_le_castSucc q i (by rw [Fin.le_def, hq]; exact h), Fin.val_succ,
      List.getD_append_right _ _ _ _ h, List.getD_append_right _ _ _ _ (by omega), Nat.succ_sub h,
      List.getD_cons_succ]

/-! ### The pivot -/

/-- No pivot: every row begins with 0. -/
theorem headD_of_splitPivot_none {rows : Rows} (h : splitPivot rows = none) :
    ∀ r ∈ rows, r.headD 0#256 = 0#256 := by
  induction rows with
  | nil => simp
  | cons r rows ih =>
    rw [splitPivot] at h
    split at h
    case isTrue hzero =>
      exact List.forall_mem_cons.mpr ⟨(bigEq_iff _ _).mp hzero, ih (Option.map_eq_none_iff.mp h)⟩
    case isFalse => cases h

/-- A pivot row is one of the rows and does not begin with 0. -/
theorem splitPivot_some {rows before after : Rows} {pivot : List Elem}
    (h : splitPivot rows = some (before, pivot, after)) :
    rows = before ++ pivot :: after ∧ pivot.headD 0#256 ≠ 0#256 := by
  induction rows generalizing before with
  | nil => cases h
  | cons r rows ih =>
    rw [splitPivot] at h
    split at h
    case isTrue =>
      obtain ⟨⟨before', pivot', after'⟩, hsplit, heq⟩ := Option.map_eq_some_iff.mp h
      cases heq
      obtain ⟨hrows, hpivot⟩ := ih hsplit
      exact ⟨by rw [hrows, List.cons_append], hpivot⟩
    case isFalse hne =>
      cases h
      exact ⟨rfl, fun hzero => hne ((bigEq_iff _ _).mpr hzero)⟩

/-! ### One row's elimination -/

/-- R152. -/
theorem fieldVal_fsub {a b : Elem} (ha : Canonical a) (hb : Canonical b) :
    fieldVal (fsub a b) = fieldVal a - fieldVal b := by
  rw [fieldVal_of_toNat_mod (fsub_toNat ha hb), Nat.cast_add, Nat.cast_sub (Nat.le_of_lt hb),
    ZMod.natCast_self, zero_sub, ← sub_eq_add_neg, fieldVal, fieldVal]

theorem eliminate_cons (b a : Elem) (pn r : List Elem) :
    eliminate (b :: pn) (a :: r) = List.zipWith (fun x y => fsub x (fmul a y)) r pn := rfl

theorem eliminate_within {w : Nat} {pn r : List Elem} (hp : pn.length = w + 1)
    (hr : r.length = w + 1) (hcan : CanonicalList r) :
    (eliminate pn r).length = w ∧ CanonicalList (eliminate pn r) := by
  refine ⟨by simp [eliminate, hp, hr], fun a ha => ?_⟩
  obtain ⟨i, hi, rfl⟩ := List.getElem_of_mem (List.mem_of_mem_tail ha)
  rw [List.getElem_zipWith]
  exact fsub_canonical (hcan _ (List.getElem_mem _)) (fmul_canonical _ _)

/-- Entry j of what is left of a row. -/
theorem eliminate_getD {w : Nat} {pn r : List Elem} (hp : pn.length = w + 1) (hr : r.length = w + 1)
    {j : Nat} (hj : j < w) : (eliminate pn r).getD j 0#256 =
      fsub (r.getD (j + 1) 0#256) (fmul (r.headD 0#256) (pn.getD (j + 1) 0#256)) := by
  obtain ⟨a, r, rfl⟩ := List.exists_cons_of_length_eq_add_one hr
  obtain ⟨b, pn, rfl⟩ := List.exists_cons_of_length_eq_add_one hp
  rw [List.length_cons, Nat.add_right_cancel_iff] at hr hp
  simp [eliminate_cons, List.getD_eq_getElem?_getD, hr, hp, hj]

/-- The rows that survive a round, entry by entry. -/
theorem rowVal_eliminate {w i j : Nat} {pn : List Elem} {rows : Rows} (hp : pn.length = w + 1)
    (hrows : RowsWithin (w + 1) rows) (hi : i < rows.length) (hj : j < w) :
    rowVal (rows.map (eliminate pn)) i j =
      rowVal rows i (j + 1) - rowVal rows i 0 * fieldVal (pn.getD (j + 1) 0#256) := by
  obtain ⟨hlen, hcan⟩ := hrows rows[i] (List.getElem_mem hi)
  have hrow : (rows.map (eliminate pn)).getD i [] = eliminate pn (rows.getD i []) := by
    simp [List.getD_eq_getElem?_getD, hi]
  rw [rowVal_zero, rowVal, rowVal, hrow, List.getD_eq_getElem _ _ hi, eliminate_getD hp hlen hj,
    fieldVal_fsub (hcan.getD (j + 1)) (fmul_canonical _ _), fieldVal_fmul]

/-- The pivot row divided by its pivot. -/
theorem fieldVal_normalized [Fact P.Prime] {pivot : List Elem} {j : Nat} (hj : j < pivot.length)
    (a : Elem) : fieldVal ((pivot.map (fmul (inversionChain a))).getD j 0#256) =
      (fieldVal a)⁻¹ * fieldVal (pivot.getD j 0#256) := by
  have hmap : j < (pivot.map (fmul (inversionChain a))).length := by rwa [List.length_map]
  rw [List.getD_eq_getElem _ _ hmap, List.getElem_map, fieldVal_fmul, fieldVal_inversionChain,
    List.getD_eq_getElem _ _ hj]

/-! ### The loop -/

/-- Without a pivot the first column is 0. -/
theorem det_no_pivot {n : Nat} {rows : Rows} (h : splitPivot rows = none) :
    (rowsMatrix (n + 1) rows).det = 0 := by
  refine Matrix.det_eq_zero_of_column_eq_zero 0 fun i => ?_
  rw [rowsMatrix_apply, Fin.val_zero, rowVal_zero, List.getD_eq_getElem?_getD]
  cases hrow : rows[i.val]? with
  | none => exact fieldVal_zero
  | some r =>
    rw [Option.getD_some, headD_of_splitPivot_none h r (List.mem_of_getElem? hrow), fieldVal_zero]

/-- Without the pivot row the other rows are as they were. -/
theorem RowsWithin.remove {w : Nat} {before after : Rows} {pivot : List Elem}
    (h : RowsWithin w (before ++ pivot :: after)) : RowsWithin w (before ++ after) := fun r hr =>
  h r (((List.sublist_cons_self pivot after).append_left before).subset hr)

theorem RowsWithin.eliminate {w : Nat} {rows : Rows} {pn : List Elem} (h : RowsWithin (w + 1) rows)
    (hp : pn.length = w + 1) : RowsWithin w (rows.map (Machine.eliminate pn)) := by
  rw [RowsWithin, List.forall_mem_map]
  intro r hr
  obtain ⟨hlen, hcan⟩ := h r hr
  exact eliminate_within hp hlen hcan

/-- R206: the rows of width n + 1 that survive a round, as rows of width n. -/
def survivors (before after : Rows) (pivot : List Elem) : Rows :=
  (before ++ after).map (eliminate (pivot.map (fmul (inversionChain (pivot.headD 0#256)))))

theorem survivors_length (before after : Rows) (pivot : List Elem) :
    (survivors before after pivot).length + 1 = (before ++ pivot :: after).length := by
  simp [survivors, Nat.add_assoc]

theorem survivors_within {n : Nat} {before after : Rows} {pivot : List Elem}
    (h : RowsWithin (n + 1) (before ++ pivot :: after)) :
    RowsWithin n (survivors before after pivot) := by
  obtain ⟨hwidth, -⟩ := h pivot (by simp)
  exact h.remove.eliminate (by rwa [List.length_map])

/-- A surviving entry is what the elimination step leaves of the matrix; the pivot row is row q. -/
theorem rowVal_survivors [Fact P.Prime] {n : Nat} {before after : Rows} {pivot : List Elem}
    (hlen : (before ++ pivot :: after).length = n + 1)
    (hrows : RowsWithin (n + 1) (before ++ pivot :: after)) {q : Fin (n + 1)}
    (hq : q.val = before.length) (i j : Fin n) :
    rowVal (survivors before after pivot) i.val j.val =
      rowVal (before ++ pivot :: after) (q.succAbove i).val (j.val + 1) -
        rowVal (before ++ pivot :: after) (q.succAbove i).val 0 *
          ((fieldVal (pivot.headD 0#256))⁻¹ * fieldVal (pivot.getD (j.val + 1) 0#256)) := by
  obtain ⟨hwidth, -⟩ := hrows pivot (by simp)
  have hi : i.val < (before ++ after).length := by
    rw [List.length_append, List.length_cons] at hlen
    rw [List.length_append]
    omega
  have hrow : ∀ k, rowVal (before ++ after) i.val k =
      rowVal (before ++ pivot :: after) (q.succAbove i).val k := fun k => by
    rw [rowVal, rowVal, getD_remove_row before after pivot q hq i]
  rw [survivors, rowVal_eliminate (by rwa [List.length_map]) hrows.remove hi j.isLt, hrow, hrow,
    fieldVal_normalized (by omega)]

/-- R206, R207: one round of the loop takes out the pivot, with the sign of its position. -/
theorem det_pivot [Fact P.Prime] {n : Nat} {before after : Rows} {pivot : List Elem}
    (hlen : (before ++ pivot :: after).length = n + 1)
    (hrows : RowsWithin (n + 1) (before ++ pivot :: after)) (hpivot : pivot.headD 0#256 ≠ 0#256) :
    (rowsMatrix (n + 1) (before ++ pivot :: after)).det =
      (-1) ^ before.length * fieldVal (pivot.headD 0#256) *
        (rowsMatrix n (survivors before after pivot)).det := by
  obtain ⟨-, hcan⟩ := hrows pivot (by simp)
  have hbefore : before.length < n + 1 := by
    rw [← hlen, List.length_append, List.length_cons]
    omega
  have hrow (k : Nat) : rowVal (before ++ pivot :: after) before.length k =
      fieldVal (pivot.getD k 0#256) := by simp [rowVal]
  have hne : rowsMatrix (n + 1) (before ++ pivot :: after) ⟨before.length, hbefore⟩ 0 ≠ 0 := by
    rw [rowsMatrix_apply, Fin.val_zero, hrow, ← headD_eq_getD]
    exact fieldVal_ne_zero (headD_eq_getD pivot ▸ hcan.getD 0) hpivot
  rw [Elimination.det_eq_pivot_mul _ hne]
  simp only [rowsMatrix_apply, Fin.val_zero, Fin.val_succ, hrow, ← headD_eq_getD]
  congr 2
  ext i j
  exact (rowVal_survivors hlen hrows rfl i j).symm

theorem detRows_no_pivot {n : Nat} {d : Elem} {rows : Rows} (h : splitPivot rows = none) :
    detRows (n + 1) d rows = 0#256 := by
  rw [detRows, h]

/-- R206, R207: the running determinant after a round with the pivot p0 at position q. -/
def nextDet (d p0 : Elem) (q : Nat) : Elem := if q % 2 = 1 then fneg (fmul d p0) else fmul d p0

theorem detRows_pivot {n : Nat} {d : Elem} {rows before after : Rows} {pivot : List Elem}
    (h : splitPivot rows = some (before, pivot, after)) : detRows (n + 1) d rows =
      detRows n (nextDet d (pivot.headD 0#256) before.length) (survivors before after pivot) := by
  rw [detRows, h]
  rfl

theorem nextDet_canonical (d p0 : Elem) (q : Nat) : Canonical (nextDet d p0 q) := by
  unfold nextDet
  split
  · exact fneg_canonical (fmul_canonical d p0)
  · exact fmul_canonical d p0

theorem fieldVal_nextDet (d p0 : Elem) (q : Nat) :
    fieldVal (nextDet d p0 q) = fieldVal d * ((-1) ^ q * fieldVal p0) := by
  unfold nextDet
  split
  case isTrue hodd =>
    rw [fieldVal_fneg (fmul_canonical d p0), fieldVal_fmul, (Nat.odd_iff.mpr hodd).neg_one_pow,
      neg_one_mul, mul_neg]
  case isFalse heven =>
    rw [fieldVal_fmul, (Nat.not_odd_iff_even.mp (mt Nat.odd_iff.mp heven)).neg_one_pow, one_mul]

theorem detRows_canonical {n : Nat} {d : Elem} (hd : Canonical d) (rows : Rows) :
    Canonical (detRows n d rows) := by
  induction n generalizing d rows with
  | zero => exact hd
  | succ n ih =>
    cases h : splitPivot rows with
    | none =>
      rw [detRows_no_pivot h]
      exact canonical_zero
    | some split =>
      obtain ⟨before, pivot, after⟩ := split
      rw [detRows_pivot h]
      exact ih (nextDet_canonical _ _ _) _

/-- The loop on n rows of width n multiplies the running determinant by the rows' determinant. -/
theorem fieldVal_detRows [Fact P.Prime] {n : Nat} (d : Elem) {rows : Rows} (hlen : rows.length = n)
    (hrows : RowsWithin n rows) :
    fieldVal (detRows n d rows) = fieldVal d * (rowsMatrix n rows).det := by
  induction n generalizing d rows with
  | zero => rw [detRows, Matrix.det_fin_zero, mul_one]
  | succ n ih =>
    cases h : splitPivot rows with
    | none => rw [detRows_no_pivot h, det_no_pivot h, fieldVal_zero, mul_zero]
    | some split =>
      obtain ⟨before, pivot, after⟩ := split
      obtain ⟨rfl, hpivot⟩ := splitPivot_some h
      have hsurvive : (survivors before after pivot).length = n := by
        have hcount := survivors_length before after pivot
        omega
      rw [detRows_pivot h, ih _ hsurvive (survivors_within hrows), fieldVal_nextDet,
        det_pivot hlen hrows hpivot, mul_assoc]

/-! ### The rows of a matrix -/

theorem Matrix.toRows_length (a : Matrix) : a.toRows.length = a.rows := by simp [toRows]

theorem Matrix.toRows_within {a : Matrix} (h : CanonicalList a.data) :
    RowsWithin a.cols a.toRows := by
  rw [RowsWithin, toRows, List.forall_mem_map]
  intro i _
  refine ⟨by simp, ?_⟩
  rw [CanonicalList, List.forall_mem_map]
  exact fun j _ => h.getD (i * a.cols + j)

theorem Matrix.rowVal_toRows (a : Matrix) {i j : Nat} (hi : i < a.rows) (hj : j < a.cols) :
    rowVal a.toRows i j = fieldVal (a.entry i j) := by
  simp [rowVal, toRows, List.getD_eq_getElem?_getD, hi, hj]

theorem det_not_square {a : Matrix} (h : a.rows ≠ a.cols) : det a = .error .invalidInput := if_pos h

theorem det_of_square {a : Matrix} (h : a.rows = a.cols) :
    det a = .ok (detRows a.rows 1#256 a.toRows) := by
  rw [det, if_neg (not_not.mpr h), h]

/-! ### The obligation -/

/-- Settles O19: the loop starts from 1 with the rows of the matrix. -/
theorem detIsDeterminant : Obligations.DetIsDeterminant := by
  intro a
  refine ⟨det_not_square, fun hsquare hcan => ?_⟩
  have hprime : Fact P.Prime := ⟨Sys2Proof.Laws.P_prime⟩
  have hrows : RowsWithin a.rows a.toRows := hsquare ▸ Matrix.toRows_within hcan
  refine ⟨_, det_of_square hsquare, detRows_canonical canonical_one _, ?_⟩
  rw [← fieldVal, fieldVal_detRows _ a.toRows_length hrows, fieldVal_one, one_mul]
  congr 1
  ext i j
  exact a.rowVal_toRows i.isLt (hsquare ▸ j.isLt)

end Sys2Proof.Machine
end

section
/-! Columns of elements as integers (spec/42_matrix.md R202 to R204): the integer at each place of what the
column operations answer, and the columns of m canonical elements they work on. -/

namespace Sys2Proof.Machine

/-- The integer at place i of a column; 0 beyond its end. -/
def colVal (v : Column) (i : Nat) : Nat := (v.getD i 0#256).toNat

/-- A column of m canonical elements. -/
structure IsColumn (m : Nat) (v : Column) : Prop where
  length : v.length = m
  canonical : CanonicalList v

theorem IsColumn.colVal_lt {m : Nat} {v : Column} (h : IsColumn m v) (i : Nat) : colVal v i < P :=
  h.canonical.getD i

/-- A column is known by its length and its integers. -/
theorem column_ext {u v : Column} (hlen : u.length = v.length)
    (h : ∀ i < v.length, colVal u i = colVal v i) : u = v := by
  refine List.ext_getElem hlen fun i hu hv => BitVec.eq_of_toNat_eq ?_
  simpa [colVal, hu, hv] using h i hv

/-! ### Place by place: sum, difference, a function of each element (R204, R205) -/

theorem getD_zipWith (f : Elem → Elem → Elem) {m : Nat} {u v : Column} (hu : u.length = m)
    (hv : v.length = m) {i : Nat} (hi : i < m) :
    (List.zipWith f u v).getD i 0#256 = f (u.getD i 0#256) (v.getD i 0#256) := by
  subst hu
  simp [List.getD_eq_getElem?_getD, hi, hv]

theorem IsColumn.vadd {m : Nat} {u v : Column} (hu : IsColumn m u) (hv : IsColumn m v) :
    IsColumn m (vadd u v) :=
  ⟨by rw [Machine.vadd, List.length_zipWith, hu.length, hv.length, min_self],
    hu.canonical.vadd hv.canonical⟩

theorem IsColumn.vsub {m : Nat} {u v : Column} (hu : IsColumn m u) (hv : IsColumn m v) :
    IsColumn m (vsub u v) :=
  ⟨by rw [Machine.vsub, List.length_zipWith, hu.length, hv.length, min_self],
    hu.canonical.vsub hv.canonical⟩

theorem colVal_vadd {m : Nat} {u v : Column} (hu : IsColumn m u) (hv : IsColumn m v) {i : Nat}
    (hi : i < m) : colVal (vadd u v) i = (colVal u i + colVal v i) % P := by
  rw [colVal, vadd, getD_zipWith fadd hu.length hv.length hi,
    fadd_toNat (hu.colVal_lt i) (hv.colVal_lt i)]
  rfl

theorem colVal_vsub {m : Nat} {u v : Column} (hu : IsColumn m u) (hv : IsColumn m v) {i : Nat}
    (hi : i < m) : colVal (vsub u v) i = (colVal u i + (P - colVal v i)) % P := by
  rw [colVal, vsub, getD_zipWith fsub hu.length hv.length hi,
    fsub_toNat (hu.colVal_lt i) (hv.colVal_lt i)]
  rfl

theorem colVal_map (f : Elem → Elem) {v : Column} {i : Nat} (hi : i < v.length) :
    colVal (v.map f) i = (f (v.getD i 0#256)).toNat := by
  simp [colVal, List.getD_eq_getElem?_getD, hi]

theorem vsub_vadd {m : Nat} {u v : Column} (hu : IsColumn m u) (hv : IsColumn m v) :
    vsub (vadd u v) v = u := by
  have hsum := hu.vadd hv
  refine column_ext ((hsum.vsub hv).length.trans hu.length.symm) fun i hi => ?_
  rw [hu.length] at hi
  have hui := hu.colVal_lt i
  have hvi := hv.colVal_lt i
  rw [colVal_vsub hsum hv hi, colVal_vadd hu hv hi, Nat.mod_add_mod, add_assoc,
    Nat.add_sub_cancel' hvi.le, Nat.add_mod_right, Nat.mod_eq_of_lt hui]

theorem vadd_vsub {m : Nat} {u v : Column} (hu : IsColumn m u) (hv : IsColumn m v) :
    vadd (vsub u v) v = u := by
  have hdiff := hu.vsub hv
  refine column_ext ((hdiff.vadd hv).length.trans hu.length.symm) fun i hi => ?_
  rw [hu.length] at hi
  have hui := hu.colVal_lt i
  have hvi := hv.colVal_lt i
  rw [colVal_vadd hdiff hv hi, colVal_vsub hu hv hi, Nat.mod_add_mod, add_assoc,
    Nat.sub_add_cancel hvi.le, Nat.add_mod_right, Nat.mod_eq_of_lt hui]

/-! ### A matrix times a column (R203) -/

/-- The accumulator over two columns of one length is the loop of the matrix product. -/
theorem dot_eq_sumProducts {m : Nat} {row v : List Elem} (hrow : row.length = m) (hv : v.length = m) :
    dot row v = sumProducts m (fun j => row.getD j 0#256) (fun j => v.getD j 0#256) := by
  have hproducts : List.zipWith fmul row v =
      (List.range m).map fun j => fmul (row.getD j 0#256) (v.getD j 0#256) := by
    refine List.ext_getElem (by simp [hrow, hv]) fun j hj _ => ?_
    have hjm : j < m := by simpa [hrow, hv] using hj
    simp [hrow, hv, hjm]
  rw [dot, sumProducts, hproducts, List.foldl_map]

theorem dot_toNat {m : Nat} {row v : List Elem} (hrow : row.length = m) (hv : v.length = m) :
    (dot row v).toNat = (∑ j ∈ Finset.range m, colVal row j * colVal v j) % P := by
  rw [dot_eq_sumProducts hrow hv, sumProducts_toNat]
  rfl

theorem matvec_isColumn (rows : Rows) (v : Column) : IsColumn rows.length (matvec rows v) :=
  ⟨by rw [matvec, List.length_map], matvec_canonical rows v⟩

theorem colVal_matvec {rows : Rows} {v : Column} {i : Nat} (hi : i < rows.length)
    (hrow : (rows.getD i []).length = v.length) : colVal (matvec rows v) i =
      (∑ j ∈ Finset.range v.length, colVal (rows.getD i []) j * colVal v j) % P := by
  rw [← dot_toNat hrow rfl]
  simp [colVal, matvec, List.getD_eq_getElem?_getD, hi]

/-! ### The leading rows of a table (R27) -/

theorem tableRows_length {m : Nat} (hm : m ≤ 12) (t : Table) : (tableRows m t).length = m := by
  simp [tableRows, hm]

theorem getD_tableRows {m r : Nat} (hm : m ≤ 12) (hr : r < m) (t : Table) :
    (tableRows m t).getD r [] = (t.toList.getD r (Vector.replicate 12 0#256)).toList.take m := by
  have hr12 : r < 12 := hr.trans_le hm
  simp [tableRows, List.getD_eq_getElem?_getD, hr, hr12]

/-- The first m elements of a row of 12 at a place below m. -/
theorem colVal_take_row {m i : Nat} (hi : i < m) (row : Vector Elem 12) :
    colVal (row.toList.take m) i = (row.toList.getD i 0#256).toNat := by
  simp [colVal, List.getD_eq_getElem?_getD, hi]

theorem length_take_row {m : Nat} (hm : m ≤ 12) (row : Vector Elem 12) :
    (row.toList.take m).length = m := by
  simp [hm]

/-- R203: the leading m×m part of a table times a column. -/
theorem colVal_tableRows {m r : Nat} (hm : m ≤ 12) (hr : r < m) (t : Table) {v : Column}
    (hv : v.length = m) : colVal (matvec (tableRows m t) v) r = rowTimes m t r (colVal v) := by
  have hrow := getD_tableRows hm hr t
  have hlen : ((tableRows m t).getD r []).length = v.length := by
    rw [hrow, length_take_row hm, hv]
  rw [colVal_matvec ((tableRows_length hm t).symm ▸ hr) hlen, hv, hrow, rowTimes]
  congr 1
  refine Finset.sum_congr rfl fun c hc => ?_
  rw [colVal_take_row (Finset.mem_range.mp hc)]
  rfl

theorem IsColumn.matvec_tableRows {m : Nat} (hm : m ≤ 12) (t : Table) (v : Column) :
    IsColumn m (matvec (tableRows m t) v) := by
  have h := matvec_isColumn (Machine.tableRows m t) v
  rwa [tableRows_length hm] at h

/-- A row sees its column modulo p only. -/
theorem rowTimes_congr {m : Nat} (t : Table) (r : Nat) {f g : Nat → Nat}
    (h : ∀ c < m, f c % P = g c % P) : rowTimes m t r f = rowTimes m t r g := by
  rw [rowTimes, rowTimes, Finset.sum_nat_mod, Finset.sum_nat_mod (Finset.range m) P fun c => _ * g c]
  congr 1
  refine Finset.sum_congr rfl fun c hc => ?_
  rw [Nat.mul_mod, h c (Finset.mem_range.mp hc), ← Nat.mul_mod]

end Sys2Proof.Machine
end

section
/-! The sub-rounds of the permutation (spec/43_permutation.md R239 to R241): the integers each leaves, and
that the inverse sub-round undoes it, since the two S-box exponents are inverse modulo p − 1 and `MDSI` is
the inverse matrix of `MDS`. -/

namespace Sys2Proof.Machine

/-! ### The S-box (R239) -/

theorem alphaInv_lt : ALPHA_INV.toNat < 2 ^ 255 := by decide

/-- The S-box of sub-round r raises to its exponent. -/
theorem sbox_toNat (mode : Mode) (r : Nat) (a : Elem) :
    (sbox (sboxExp mode r) a).toNat = a.toNat ^ sboxExponent mode r % P := by
  have halpha : (sbox .alpha a).toNat = a.toNat ^ ALPHA % P := pow5_toNat a
  have hinv : (sbox .alphaInv a).toNat = a.toNat ^ ALPHA_INV.toNat % P :=
    pow_toNat a ALPHA_INV alphaInv_lt
  rcases Nat.mod_two_eq_zero_or_one r with h | h <;> cases mode <;>
    simp only [sboxExp, sboxExponent, h, if_true, one_ne_zero, if_false, halpha, hinv]

/-- The exponent that undoes sub-round r is that of the next one. -/
theorem invExp_sboxExp (mode : Mode) (r : Nat) : invExp (sboxExp mode r) = sboxExp mode (r + 1) := by
  rcases Nat.mod_two_eq_zero_or_one r with h | h <;> cases mode <;>
    simp [sboxExp, invExp, h, Nat.add_mod]

theorem invExp_invExp (e : SboxExp) : invExp (invExp e) = e := by
  cases e <;> rfl

/-- The power with both exponents is the element itself (R223). -/
theorem pow_five_mul_alphaInv [Fact P.Prime] (x : ZMod P) : x ^ (5 * ALPHA_INV.toNat) = x := by
  rw [five_mul_alphaInv, pow_succ, mul_comm 3, pow_mul]
  by_cases h : x = 0
  · rw [h, mul_zero]
  · rw [ZMod.pow_card_sub_one_eq_one h, one_pow, one_mul]

theorem fieldVal_pow5 (a : Elem) : fieldVal (pow5 a) = fieldVal a ^ 5 := by
  rw [fieldVal_of_toNat_mod (pow5_toNat a), Nat.cast_pow, fieldVal]

/-- R223, R239: each S-box undoes the other. -/
theorem sbox_invExp [Fact P.Prime] (e : SboxExp) {a : Elem} (ha : Canonical a) :
    sbox (invExp e) (sbox e a) = a := by
  refine eq_of_fieldVal_eq (sbox_canonical _ _) ha ?_
  cases e with
  | alpha =>
    change fieldVal (pow (pow5 a) ALPHA_INV) = fieldVal a
    rw [fieldVal_pow _ alphaInv_lt, fieldVal_pow5, ← pow_mul, pow_five_mul_alphaInv]
  | alphaInv =>
    change fieldVal (pow5 (pow a ALPHA_INV)) = fieldVal a
    rw [fieldVal_pow5, fieldVal_pow _ alphaInv_lt, ← pow_mul, mul_comm _ 5, pow_five_mul_alphaInv]

theorem IsColumn.mapSbox (e : SboxExp) {m : Nat} {v : Column} (h : v.length = m) :
    IsColumn m (v.map (sbox e)) :=
  ⟨(List.length_map _).trans h, canonicalList_map (sbox_canonical e) v⟩

theorem map_sbox_invExp [Fact P.Prime] (e : SboxExp) {v : Column} (h : CanonicalList v) :
    (v.map (sbox e)).map (sbox (invExp e)) = v := by
  rw [List.map_map]
  exact (List.map_congr_left fun a ha => sbox_invExp e (h a ha)).trans (List.map_id v)

theorem map_invExp_sbox [Fact P.Prime] (e : SboxExp) {v : Column} (h : CanonicalList v) :
    (v.map (sbox (invExp e))).map (sbox e) = v := by
  have hundo := map_sbox_invExp (invExp e) h
  rwa [invExp_invExp] at hundo

/-! ### The tables as matrices over the field (R228, R229) -/

/-- The leading m×m part of a table over the field. -/
def tableMatrix (m : Nat) (t : Table) :=
  Matrix.of fun r c : Fin m => fieldVal (tableEntry t r.val c.val)

/-- A column over the field. -/
def columnVec (m : Nat) (v : Column) (i : Fin m) : ZMod P := (colVal v i.val : ZMod P)

theorem columnVec_injective {m : Nat} {u v : Column} (hu : IsColumn m u) (hv : IsColumn m v)
    (h : columnVec m u = columnVec m v) : u = v := by
  refine column_ext (hu.length.trans hv.length.symm) fun i hi => ?_
  have hclass : (colVal u i : ZMod P) = (colVal v i : ZMod P) := congrFun h ⟨i, hv.length ▸ hi⟩
  rw [← Nat.mod_eq_of_lt (hu.colVal_lt i), mod_eq_of_natCast_eq (hv.colVal_lt i) hclass]

/-- R203 over the field. -/
theorem columnVec_tableRows {m : Nat} (hm : m ≤ 12) (t : Table) {v : Column} (hv : v.length = m) :
    columnVec m (matvec (tableRows m t) v) = (tableMatrix m t).mulVec (columnVec m v) := by
  funext r
  rw [columnVec, colVal_tableRows hm r.isLt t hv, rowTimes, ZMod.natCast_mod, Nat.cast_sum,
    Matrix.mulVec, dotProduct, Finset.sum_range]
  simp only [Nat.cast_mul]
  rfl

theorem tableMatrix_mul [Fact P.Prime] {m : Nat} {mds mdsi : Table} (h : MdsPair m mds mdsi) :
    tableMatrix m mds * tableMatrix m mdsi = 1 := by
  obtain ⟨-, hproduct, -⟩ := h
  ext r c
  have hrc := congrArg (Nat.cast : Nat → ZMod P) (hproduct r r.isLt c c.isLt)
  rw [rowTimes, ZMod.natCast_mod, Nat.cast_sum, Finset.sum_range] at hrc
  simp only [Nat.cast_mul, Nat.cast_ite, Nat.cast_one, Nat.cast_zero] at hrc
  rw [Matrix.mul_apply, Matrix.one_apply]
  simp only [Fin.ext_iff]
  exact hrc

/-- Two tables whose matrices are inverse undo each other on a column. -/
theorem tableRows_undo {m : Nat} (hm : m ≤ 12) {t t' : Table}
    (h : tableMatrix m t' * tableMatrix m t = 1) {v : Column} (hv : IsColumn m v) :
    matvec (tableRows m t') (matvec (tableRows m t) v) = v := by
  refine columnVec_injective (IsColumn.matvec_tableRows hm t' _) hv ?_
  rw [columnVec_tableRows hm t' (IsColumn.matvec_tableRows hm t v).length, columnVec_tableRows hm t hv.length,
    Matrix.mulVec_mulVec, h, Matrix.one_mulVec]

theorem mds_mdsi [Fact P.Prime] {m : Nat} (hm : m ≤ 12) {mds mdsi : Table} (h : MdsPair m mds mdsi)
    {v : Column} (hv : IsColumn m v) :
    matvec (tableRows m mds) (matvec (tableRows m mdsi) v) = v :=
  tableRows_undo hm (tableMatrix_mul h) hv

theorem mdsi_mds [Fact P.Prime] {m : Nat} (hm : m ≤ 12) {mds mdsi : Table} (h : MdsPair m mds mdsi)
    {v : Column} (hv : IsColumn m v) :
    matvec (tableRows m mdsi) (matvec (tableRows m mds) v) = v :=
  tableRows_undo hm (mul_eq_one_comm.mp (tableMatrix_mul h)) hv

/-! ### A sub-round and its inverse (R240, R241) -/

section SubRound

variable {m : Nat} {k v : Column} (mode : Mode) (r : Nat)

theorem IsColumn.subRound (hm : m ≤ 12) (mds : Table) (hk : IsColumn m k) :
    IsColumn m (subRound mode (Machine.tableRows m mds) r k v) :=
  (IsColumn.matvec_tableRows hm mds _).vadd hk

theorem IsColumn.subRoundInverse (hm : m ≤ 12) (mdsi : Table) :
    IsColumn m (subRoundInverse mode (Machine.tableRows m mdsi) r k v) :=
  IsColumn.mapSbox _ (IsColumn.matvec_tableRows hm mdsi _).length

theorem colVal_subRound (hm : m ≤ 12) (mds : Table) (hk : IsColumn m k) (hv : v.length = m) {i : Nat}
    (hi : i < m) : colVal (subRound mode (tableRows m mds) r k v) i =
      (rowTimes m mds i (fun j => colVal v j ^ sboxExponent mode r) + colVal k i) % P := by
  have hbox := IsColumn.mapSbox (sboxExp mode r) hv
  rw [subRound, colVal_vadd (IsColumn.matvec_tableRows hm mds _) hk hi, colVal_tableRows hm hi mds hbox.length]
  congr 2
  refine rowTimes_congr mds i fun c hc => ?_
  rw [colVal_map _ (hv.symm ▸ hc), sbox_toNat, Nat.mod_mod]
  rfl

theorem colVal_subRoundInverse (hm : m ≤ 12) (mdsi : Table) (hk : IsColumn m k) (hv : IsColumn m v)
    {i : Nat} (hi : i < m) : colVal (subRoundInverse mode (tableRows m mdsi) r k v) i =
      rowTimes m mdsi i (fun j => colVal v j + (P - colVal k j)) ^ undoExponent mode r % P := by
  have hdiff := hv.vsub hk
  have hcol := IsColumn.matvec_tableRows hm mdsi (vsub v k)
  rw [subRoundInverse, colVal_map _ (hcol.length.symm ▸ hi), invExp_sboxExp, sbox_toNat, ← colVal,
    colVal_tableRows hm hi mdsi hdiff.length, undoExponent]
  congr 2
  refine rowTimes_congr mdsi i fun c hc => ?_
  rw [colVal_vsub hv hk hc, Nat.mod_mod]

variable [Fact P.Prime] {mds mdsi : Table}

/-- R241: the inverse of a sub-round undoes it. -/
theorem subRoundInverse_subRound (hm : m ≤ 12) (h : MdsPair m mds mdsi) (hk : IsColumn m k)
    (hv : IsColumn m v) : subRoundInverse mode (tableRows m mdsi) r k
      (subRound mode (tableRows m mds) r k v) = v := by
  have hbox := IsColumn.mapSbox (sboxExp mode r) hv.length
  rw [subRoundInverse, subRound, vsub_vadd (IsColumn.matvec_tableRows hm mds _) hk, mdsi_mds hm h hbox,
    map_sbox_invExp _ hv.canonical]

theorem subRound_subRoundInverse (hm : m ≤ 12) (h : MdsPair m mds mdsi) (hk : IsColumn m k)
    (hv : IsColumn m v) : subRound mode (tableRows m mds) r k
      (subRoundInverse mode (tableRows m mdsi) r k v) = v := by
  have hdiff := hv.vsub hk
  have hcol := IsColumn.matvec_tableRows hm mdsi (vsub v k)
  rw [subRound, subRoundInverse, map_invExp_sbox _ hcol.canonical, mds_mdsi hm h hdiff, vadd_vsub hv hk]

end SubRound

end Sys2Proof.Machine
end

section
/-! The permutation state by state (spec/43_permutation.md R240, R241): each state of `perm_states` and each
column of `permute_inverse` comes from its neighbour by one sub-round, so that the one run undoes the other. -/

namespace Sys2Proof.Machine

/-! ### The lists of states (R240) -/

theorem statesFrom_getD_zero (mode : Mode) (mds : Rows) (r : Nat) (ks : List Column) (s : Column) :
    (statesFrom mode mds r ks s).getD 0 [] = s := by
  cases ks <;> rfl

/-- One state of the list from the one before it. -/
theorem statesFrom_getD_succ (mode : Mode) (mds : Rows) {r i : Nat} {ks : List Column} (s : Column)
    (hi : i < ks.length) : (statesFrom mode mds r ks s).getD (i + 1) [] =
      subRound mode mds (r + i) (ks.getD i []) ((statesFrom mode mds r ks s).getD i []) := by
  induction ks generalizing r s i with
  | nil => cases hi
  | cons k ks ih =>
    rw [statesFrom, List.getD_cons_succ]
    cases i with
    | zero => exact statesFrom_getD_zero mode mds (r + 1) ks _
    | succ i =>
      rw [ih _ (Nat.lt_of_succ_lt_succ hi), List.getD_cons_succ, List.getD_cons_succ, Nat.add_assoc,
        Nat.add_comm 1 i]

theorem permStates_getD_zero (mode : Mode) (mds : Rows) {ks : List Column} (hks : ks ≠ [])
    (s : Column) : (permStates mode mds ks s).getD 0 [] = vadd s (ks.getD 0 []) := by
  obtain ⟨k, ks, rfl⟩ := List.exists_cons_of_ne_nil hks
  exact statesFrom_getD_zero mode mds 0 ks _

theorem permStates_getD_succ (mode : Mode) (mds : Rows) {ks : List Column} (s : Column) {r : Nat}
    (hr : r + 1 < ks.length) : (permStates mode mds ks s).getD (r + 1) [] =
      subRound mode mds r (ks.getD (r + 1) []) ((permStates mode mds ks s).getD r []) := by
  cases ks with
  | nil => cases hr
  | cons k ks =>
    rw [permStates, statesFrom_getD_succ mode mds _ (Nat.lt_of_succ_lt_succ hr), Nat.zero_add,
      List.getD_cons_succ]

/-! ### The subkeys of a descriptor (R27) -/

theorem subkeys_length {d : Descriptor} (hn : d.n.toNat ≤ 35) :
    d.subkeys.length = 2 * d.n.toNat + 1 := by
  simp only [Descriptor.subkeys, List.length_map, List.length_take, Vector.length_toList]
  omega

theorem subkeys_getD {d : Descriptor} (hn : d.n.toNat ≤ 35) {t : Nat} (ht : t ≤ 2 * d.n.toNat) :
    d.subkeys.getD t [] = d.subkey t := by
  have h71 : t < 71 := by omega
  have hcount : t < 2 * d.n.toNat + 1 := by omega
  simp [Descriptor.subkeys, Descriptor.subkey, List.getD_eq_getElem?_getD, h71, hcount]

theorem subkeys_drop {d : Descriptor} (hn : d.n.toNat ≤ 35) {t : Nat} (ht : t ≤ 2 * d.n.toNat) :
    d.subkeys.drop t = d.subkey t :: d.subkeys.drop (t + 1) := by
  have hlt : t < d.subkeys.length := by rw [subkeys_length hn]; omega
  rw [List.drop_eq_getElem_cons hlt, ← subkeys_getD hn ht, List.getD_eq_getElem _ _ hlt]

theorem colVal_subkey (d : Descriptor) (t : Nat) {i : Nat} (hi : i < d.m.toNat) :
    colVal (d.subkey t) i = (tableEntry d.k t i).toNat :=
  colVal_take_row hi _

/-- What the permutation needs of a valid descriptor (R27). -/
structure RunsPermutation (d : Descriptor) : Prop where
  m_le : d.m.toNat ≤ 12
  n_le : d.n.toNat ≤ 35
  mds : MdsPair d.m.toNat d.mds d.mdsi
  subkey : ∀ t, IsColumn d.m.toNat (d.subkey t)

theorem ValidDescriptor.runsPermutation {d : Descriptor} (h : ValidDescriptor d) :
    RunsPermutation d := by
  have hsubkeys := ValidDescriptor.subkeysCanonical h
  obtain ⟨-, -, h12, -, -, h35, hmds, -⟩ := h
  exact ⟨h12, h35, hmds, fun t => ⟨length_take_row h12 _, hsubkeys.subkey t⟩⟩

/-! ### The states of `PERM` (R240) -/

/-- State r of the permutation of a column. -/
def permState (d : Descriptor) (v : Column) (r : Nat) : Column :=
  (permStates d.mode (tableRows d.m.toNat d.mds) d.subkeys v).getD r []

section Forward

variable {d : Descriptor} (v : Column)

theorem permState_zero (hn : d.n.toNat ≤ 35) : permState d v 0 = vadd v (d.subkey 0) := by
  have hne : d.subkeys ≠ [] := List.ne_nil_of_length_pos (by rw [subkeys_length hn]; omega)
  rw [permState, permStates_getD_zero _ _ hne, subkeys_getD hn (Nat.zero_le _)]

theorem permState_succ (hn : d.n.toNat ≤ 35) {r : Nat} (hr : r < 2 * d.n.toNat) :
    permState d v (r + 1) =
      subRound d.mode (tableRows d.m.toNat d.mds) r (d.subkey (r + 1)) (permState d v r) := by
  rw [permState, permStates_getD_succ _ _ _ (by rw [subkeys_length hn]; omega), subkeys_getD hn hr]
  rfl

/-- `permute` answers the last of the 2N + 1 states. -/
theorem permute_eq_permState (hn : d.n.toNat ≤ 35) : permute d v = permState d v (2 * d.n.toNat) := by
  have hlen : (permStates d.mode (tableRows d.m.toNat d.mds) d.subkeys v).length =
      2 * d.n.toNat + 1 := by
    rw [permStates_length, subkeys_length hn]
  rw [permute, permState, List.getLastD_eq_getLast?, List.getLast?_eq_getElem?, hlen,
    Nat.add_sub_cancel, List.getD_eq_getElem?_getD, List.getElem?_eq_getElem (by omega)]
  rfl

end Forward

theorem IsColumn.permState {d : Descriptor} (hd : RunsPermutation d) {v : Column}
    (hv : IsColumn d.m.toNat v) {r : Nat} (hr : r ≤ 2 * d.n.toNat) :
    IsColumn d.m.toNat (permState d v r) := by
  cases r with
  | zero => rw [permState_zero v hd.n_le]; exact hv.vadd (hd.subkey 0)
  | succ r => rw [permState_succ v hd.n_le hr]; exact IsColumn.subRound _ _ hd.m_le _ (hd.subkey _)

/-! ### The columns of `PERMI` (R241) -/

/-- The column left once the sub-rounds from r on are undone. -/
def undoState (d : Descriptor) (u : Column) (r : Nat) : Column :=
  undoFrom d.mode (tableRows d.m.toNat d.mdsi) r (d.subkeys.drop (r + 1)) u

section Backward

variable {d : Descriptor} (u : Column)

theorem undoState_last (hn : d.n.toNat ≤ 35) : undoState d u (2 * d.n.toNat) = u := by
  rw [undoState, List.drop_of_length_le (by rw [subkeys_length hn]), undoFrom]

theorem undoState_step (hn : d.n.toNat ≤ 35) {r : Nat} (hr : r < 2 * d.n.toNat) :
    undoState d u r = subRoundInverse d.mode (tableRows d.m.toNat d.mdsi) r (d.subkey (r + 1))
      (undoState d u (r + 1)) := by
  rw [undoState, subkeys_drop hn hr, undoFrom]
  rfl

/-- `permute_inverse` undoes the first subkey last. -/
theorem permuteInverse_eq_undoState (hn : d.n.toNat ≤ 35) :
    permuteInverse d u = vsub (undoState d u 0) (d.subkey 0) := by
  have hkeys : d.subkeys = d.subkey 0 :: d.subkeys.drop 1 := subkeys_drop hn (Nat.zero_le _)
  rw [permuteInverse, undoState, hkeys]
  rfl

end Backward

theorem IsColumn.undoState {d : Descriptor} (hd : RunsPermutation d) {u : Column}
    (hu : IsColumn d.m.toNat u) {r : Nat} (hr : r ≤ 2 * d.n.toNat) :
    IsColumn d.m.toNat (undoState d u r) := by
  rcases hr.eq_or_lt with rfl | hlt
  · rwa [undoState_last u hd.n_le]
  · rw [undoState_step u hd.n_le hlt]
    exact IsColumn.subRoundInverse _ _ hd.m_le _

/-! ### The two runs undo each other -/

section Inverse

variable [Fact P.Prime] {d : Descriptor} (hd : RunsPermutation d) {v : Column}
  (hv : IsColumn d.m.toNat v)
include hd hv

/-- Undoing the sub-rounds from r on, from the last state, leads back to state r. -/
theorem undoState_permState {r : Nat} (hr : r ≤ 2 * d.n.toNat) :
    undoState d (permState d v (2 * d.n.toNat)) r = permState d v r := by
  induction hr using Nat.decreasingInduction with
  | self => exact undoState_last _ hd.n_le
  | of_succ r hr ih =>
    rw [undoState_step _ hd.n_le hr, ih, permState_succ v hd.n_le hr]
    exact subRoundInverse_subRound _ _ hd.m_le hd.mds (hd.subkey _) (hv.permState hd hr.le)

theorem permuteInverse_permute : permuteInverse d (permute d v) = v := by
  rw [permute_eq_permState v hd.n_le, permuteInverse_eq_undoState _ hd.n_le,
    undoState_permState hd hv (Nat.zero_le _), permState_zero v hd.n_le, vsub_vadd hv (hd.subkey 0)]

/-- The states from the undone column on are the columns of the undoing. -/
theorem permState_permuteInverse {r : Nat} (hr : r ≤ 2 * d.n.toNat) :
    permState d (permuteInverse d v) r = undoState d v r := by
  induction r with
  | zero =>
    rw [permState_zero _ hd.n_le, permuteInverse_eq_undoState v hd.n_le]
    exact vadd_vsub (hv.undoState hd (Nat.zero_le _)) (hd.subkey 0)
  | succ r ih =>
    rw [permState_succ _ hd.n_le hr, ih (Nat.le_of_succ_le hr), undoState_step v hd.n_le hr]
    exact subRound_subRoundInverse _ _ hd.m_le hd.mds (hd.subkey _) (hv.undoState hd hr)

theorem permute_permuteInverse : permute d (permuteInverse d v) = v := by
  rw [permute_eq_permState _ hd.n_le, permState_permuteInverse hd hv le_rfl, undoState_last v hd.n_le]

end Inverse

theorem IsColumn.permute {d : Descriptor} (hd : RunsPermutation d) {v : Column}
    (hv : IsColumn d.m.toNat v) : IsColumn d.m.toNat (permute d v) := by
  rw [permute_eq_permState v hd.n_le]
  exact hv.permState hd le_rfl

theorem IsColumn.permuteInverse {d : Descriptor} (hd : RunsPermutation d) {v : Column}
    (hv : IsColumn d.m.toNat v) : IsColumn d.m.toNat (permuteInverse d v) := by
  rw [permuteInverse_eq_undoState v hd.n_le]
  exact (hv.undoState hd (Nat.zero_le _)).vsub (hd.subkey 0)

end Sys2Proof.Machine
end

section
/-! The commands of the permutation engine that work on `S` (spec/43_permutation.md R243, R251 to R263):
the state each completion leaves, the integers of its lanes, and which commands undo each other. -/

namespace Sys2Proof.Machine

/-! ### The leading lanes (R26) -/

section Lanes

variable (s : State) {m : Nat}

theorem lanes_length (hm : m ≤ 12) : (s.lanes m).length = m := length_take_row hm s.svec

theorem colVal_lanes {i : Nat} (hi : i < m) : colVal (s.lanes m) i = (s.lane i).toNat :=
  colVal_take_row hi s.svec

theorem lane_eq_get (j : Fin 12) : s.lane j.val = s.svec.get j := by
  simp [State.lane, List.getD_eq_getElem?_getD, Vector.get]

theorem ElementsInv.isColumn {s : State} (h : ElementsInv s) (hm : m ≤ 12) :
    IsColumn m (s.lanes m) := by
  obtain ⟨-, hsvec, -⟩ := h
  exact ⟨lanes_length s hm, CanonicalList.take hsvec m⟩

/-- The integers of the lanes under a column: those of the column, then those of the old lanes. -/
theorem lanesWritten_toNat (u : Vector Elem 12) (v : Column) (j : Fin 12) :
    ((lanesWritten u v).get j).toNat = if j.val < v.length then colVal v j.val else (u.get j).toNat := by
  rw [lanesWritten_get, colVal, List.getD_eq_getElem?_getD, List.getD_eq_getElem?_getD]
  split
  case isTrue h => rw [List.getElem?_eq_getElem h, Option.getD_some, Option.getD_some]
  case isFalse h => rw [List.getElem?_eq_none (not_lt.mp h), Option.getD_none]

theorem vector_ext {u v : Vector Elem 12} (h : ∀ j, (u.get j).toNat = (v.get j).toNat) : u = v :=
  Vector.ext fun i hi => BitVec.eq_of_toNat_eq (h ⟨i, hi⟩)

theorem lanes_setLanes {v : Column} (hm : m ≤ 12) (hv : v.length = m) :
    (s.setLanes v).lanes m = v := by
  refine column_ext ((lanes_length _ hm).trans hv.symm) fun i hi => ?_
  have hlane := lanesWritten_toNat s.svec v ⟨i, hi.trans_le (hv.trans_le hm)⟩
  rw [if_pos hi] at hlane
  rw [colVal_lanes _ (hv ▸ hi), ← hlane]
  exact congrArg BitVec.toNat (lane_eq_get (s.setLanes v) ⟨i, hi.trans_le (hv.trans_le hm)⟩)

theorem setLanes_setLanes {v w : Column} (h : v.length = w.length) :
    (s.setLanes v).setLanes w = s.setLanes w := by
  refine congrArg (fun u => { s with svec := u }) (vector_ext fun j => ?_)
  rw [lanesWritten_toNat, lanesWritten_toNat]
  split
  case isTrue => rfl
  case isFalse hj => exact (lanesWritten_toNat s.svec v j).trans (if_neg (h ▸ hj))

theorem setLanes_lanes (hm : m ≤ 12) : s.setLanes (s.lanes m) = s := by
  refine congrArg (fun u => { s with svec := u }) (vector_ext fun j => ?_)
  rw [lanesWritten_toNat, lanes_length s hm]
  split
  case isTrue hj => rw [colVal_lanes s hj, lane_eq_get]
  case isFalse => rfl

end Lanes

/-! ### Layers: commands that replace the leading lanes (R243 (7)) -/

/-- On slot k holding d, the command completes with f of the first m lanes in their place. -/
def IsLayer (k : Slot) (d : Descriptor) (i : Instr) (f : Column → Column) : Prop :=
  ∀ s : State, s.slot k = d → exec i s = .next (after (s.setLanes (f (s.lanes d.m.toNat))))

theorem isLayer_of_mapLanes {k : Slot} {d : Descriptor} {i : Instr} {f : Descriptor → Column → Column}
    (hi : ∀ s, exec i s = finish s (s.mapLanes k f)) (hvalid : d.valid = true) :
    IsLayer k d i (f d) := by
  rintro s rfl
  rw [hi, mapLanes_ok_iff.mpr ⟨hvalid, rfl⟩, finish_ok]

theorem isLayer_of_mapLanesAt {k : Slot} {d : Descriptor} {i : Instr} {n : Nat}
    {bound : Descriptor → Nat} {f : Descriptor → Column → Column}
    (hi : ∀ s, exec i s = finish s (s.mapLanesAt k n bound f)) (hvalid : d.valid = true)
    (hn : n ≤ bound d) : IsLayer k d i (f d) := by
  rintro s rfl
  rw [hi, mapLanesAt_ok_iff.mpr ⟨hvalid, hn, rfl⟩, finish_ok]

section Layers

variable {k : Slot} {d : Descriptor} (hvalid : d.valid = true)
include hvalid

theorem isLayer_vaddk {n : BitVec 7} (hn : n.toNat ≤ 2 * d.n.toNat) :
    IsLayer k d (.vaddk k n) fun v => vadd v (d.subkey n.toNat) :=
  isLayer_of_mapLanesAt (f := fun d v => vadd v (d.subkey n.toNat)) (fun _ => rfl) hvalid hn

theorem isLayer_vsubk {n : BitVec 7} (hn : n.toNat ≤ 2 * d.n.toNat) :
    IsLayer k d (.vsubk k n) fun v => vsub v (d.subkey n.toNat) :=
  isLayer_of_mapLanesAt (f := fun d v => vsub v (d.subkey n.toNat)) (fun _ => rfl) hvalid hn

theorem isLayer_vpowa : IsLayer k d (.vpowa k) fun v => v.map (sbox .alpha) :=
  isLayer_of_mapLanes (f := fun _ v => v.map (sbox .alpha)) (fun _ => rfl) hvalid

theorem isLayer_vpowai : IsLayer k d (.vpowai k) fun v => v.map (sbox .alphaInv) :=
  isLayer_of_mapLanes (f := fun _ v => v.map (sbox .alphaInv)) (fun _ => rfl) hvalid

theorem isLayer_vmds : IsLayer k d (.vmds k) (matvec (tableRows d.m.toNat d.mds)) :=
  isLayer_of_mapLanes (f := fun d => matvec (tableRows d.m.toNat d.mds)) (fun _ => rfl) hvalid

theorem isLayer_vmdsi : IsLayer k d (.vmdsi k) (matvec (tableRows d.m.toNat d.mdsi)) :=
  isLayer_of_mapLanes (f := fun d => matvec (tableRows d.m.toNat d.mdsi)) (fun _ => rfl) hvalid

theorem isLayer_psub {n : BitVec 7} (hn : n.toNat < 2 * d.n.toNat) : IsLayer k d (.psub k n)
    (subRound d.mode (tableRows d.m.toNat d.mds) n.toNat (d.subkey (n.toNat + 1))) :=
  isLayer_of_mapLanesAt (f := fun d =>
      subRound d.mode (tableRows d.m.toNat d.mds) n.toNat (d.subkey (n.toNat + 1)))
    (fun _ => rfl) hvalid (Nat.le_sub_one_of_lt hn)

theorem isLayer_psubi {n : BitVec 7} (hn : n.toNat < 2 * d.n.toNat) : IsLayer k d (.psubi k n)
    (subRoundInverse d.mode (tableRows d.m.toNat d.mdsi) n.toNat (d.subkey (n.toNat + 1))) :=
  isLayer_of_mapLanesAt (f := fun d =>
      subRoundInverse d.mode (tableRows d.m.toNat d.mdsi) n.toNat (d.subkey (n.toNat + 1)))
    (fun _ => rfl) hvalid (Nat.le_sub_one_of_lt hn)

theorem isLayer_perm : IsLayer k d (.perm k) (permute d) :=
  isLayer_of_mapLanes (fun _ => rfl) hvalid

theorem isLayer_permi : IsLayer k d (.permi k) (permuteInverse d) :=
  isLayer_of_mapLanes (fun _ => rfl) hvalid

end Layers

/-! ### What a layer leaves -/

section Effects

variable {s : State} {k : Slot} {d : Descriptor} {i i' : Instr} {f g : Column → Column}

/-- The integers of the lanes a layer leaves; only m ≤ 12 lanes are there to replace. -/
theorem IsLayer.lane_values (h : IsLayer k d i f) (hs : s.slot k = d) {val : Fin 12 → Nat}
    (hlen : (f (s.lanes d.m.toNat)).length = min d.m.toNat 12)
    (hval : ∀ j : Fin 12, j.val < d.m.toNat → colVal (f (s.lanes d.m.toNat)) j.val = val j) :
    ∃ u : Vector Elem 12, (∀ j : Fin 12, (u.get j).toNat =
        if j.val < d.m.toNat then val j else (s.svec.get j).toNat) ∧
      exec i s = .next (after { s with svec := u }) := by
  refine ⟨lanesWritten s.svec (f (s.lanes d.m.toNat)), fun j => ?_, h s hs⟩
  have hbound : j.val < min d.m.toNat 12 ↔ j.val < d.m.toNat := by omega
  rw [lanesWritten_toNat, hlen, if_congr hbound rfl rfl]
  split
  case isTrue hj => exact hval j hj
  case isFalse => rfl

/-- The same for a descriptor whose m fits the vector. -/
theorem IsLayer.lane_values_of_le (h : IsLayer k d i f) (hs : s.slot k = d) (hm : d.m.toNat ≤ 12)
    {val : Fin 12 → Nat} (hlen : (f (s.lanes d.m.toNat)).length = d.m.toNat)
    (hval : ∀ j : Fin 12, j.val < d.m.toNat → colVal (f (s.lanes d.m.toNat)) j.val = val j) :
    ∃ u : Vector Elem 12, (∀ j : Fin 12, (u.get j).toNat =
        if j.val < d.m.toNat then val j else (s.svec.get j).toNat) ∧
      exec i s = .next (after { s with svec := u }) :=
  h.lane_values hs (hlen.trans (min_eq_left hm).symm) hval

theorem slot_after_setLanes (s : State) (v : Column) (k : Slot) :
    (after (s.setLanes v)).slot k = s.slot k := by
  cases k <;> rfl

/-- A layer after another replaces the lanes the other left. -/
theorem IsLayer.next (h : IsLayer k d i f) (hs : s.slot k = d) (hm : d.m.toNat ≤ 12) {v : Column}
    (hv : v.length = d.m.toNat) (hlen : (f v).length = d.m.toNat) :
    exec i (after (s.setLanes v)) = .next (after (s.setLanes (f v))) := by
  rw [h _ ((slot_after_setLanes s v k).trans hs)]
  change Host.Outcome.next (after ((s.setLanes v).setLanes (f ((s.setLanes v).lanes d.m.toNat)))) = _
  rw [lanes_setLanes s hm hv, setLanes_setLanes s (hv.trans hlen.symm)]

/-- A layer whose function the next one undoes. -/
theorem IsLayer.undone (hf : IsLayer k d i f) (hg : IsLayer k d i' g) (hs : s.slot k = d)
    (hm : d.m.toNat ≤ 12) (hlen : (f (s.lanes d.m.toNat)).length = d.m.toNat)
    (hinv : g (f (s.lanes d.m.toNat)) = s.lanes d.m.toNat) :
    ∃ u, exec i s = .next u ∧ exec i' u = .next (after s) := by
  refine ⟨_, hf s hs, ?_⟩
  rw [hg.next hs hm hlen (by rw [hinv, lanes_length s hm]), hinv, setLanes_lanes s hm]

end Effects

/-! ### The integers of the lanes and of the states -/

/-- A function of each element, on the lanes there are. -/
theorem colVal_map_lanes (s : State) {m : Nat} (f : Elem → Elem) (j : Fin 12) (hj : j.val < m) :
    colVal ((s.lanes m).map f) j.val = (f (s.svec.get j)).toNat := by
  have hlen : j.val < (s.lanes m).length := by simp [State.lanes, hj]
  have hval : colVal (s.lanes m) j.val = (s.svec.get j).toNat := by rw [colVal_lanes s hj, lane_eq_get]
  rw [colVal_map f hlen, BitVec.eq_of_toNat_eq hval]

/-- The states of `PERM` as integers (R240). -/
theorem permStates_permState {d : Descriptor} (hd : RunsPermutation d) {v : Column}
    (hv : IsColumn d.m.toNat v) {val : Nat → Nat} (hval : ∀ i < d.m.toNat, colVal v i = val i) :
    PermStates d val fun r => colVal (permState d v r) := by
  refine ⟨fun i hi => ?_, fun r hr i hi => ?_⟩
  · dsimp only
    rw [permState_zero v hd.n_le, colVal_vadd hv (hd.subkey 0) hi, hval i hi, colVal_subkey d 0 hi]
  · dsimp only
    rw [permState_succ v hd.n_le hr, colVal_subRound _ _ hd.m_le _ (hd.subkey _)
      (hv.permState hd hr.le).length hi, colVal_subkey d _ hi]

/-- The columns of `PERMI` as integers (R241). -/
theorem undoStates_undoState {d : Descriptor} (hd : RunsPermutation d) {v : Column}
    (hv : IsColumn d.m.toNat v) {val : Nat → Nat} (hval : ∀ i < d.m.toNat, colVal v i = val i) :
    UndoStates d val fun r => colVal (undoState d v r) := by
  refine ⟨fun i hi => ?_, fun r hr i hi => ?_⟩
  · dsimp only
    rw [undoState_last v hd.n_le, hval i hi]
  · dsimp only
    rw [undoState_step v hd.n_le hr, colVal_subRoundInverse _ _ hd.m_le _ (hd.subkey _)
      (hv.undoState hd hr) hi]
    congr 2
    exact rowTimes_congr _ _ fun c hc => by rw [colVal_subkey d _ hc]

/-! ### `PERM` as a run of its sub-rounds (R260) -/

theorem runCommands_append (is js : List Instr) (s : State) :
    runCommands (is ++ js) s = (runCommands is s).bind (runCommands js) := by
  induction is generalizing s with
  | nil => rfl
  | cons i is ih =>
    obtain ⟨t, ht⟩ := exec_answers i s
    rw [List.cons_append, runCommands, runCommands, ht]
    dsimp only
    split
    · rfl
    · exact ih t

theorem runCommands_of_exec {i : Instr} {is : List Instr} {s t : State} (h : exec i s = .next t)
    (herr : t.err = false) : runCommands (i :: is) s = runCommands is t := by
  rw [runCommands, h]
  simp [herr]

/-- The length of a state does not depend on the lanes being canonical. -/
theorem permState_length {d : Descriptor} (hd : RunsPermutation d) {v : Column}
    (hv : v.length = d.m.toNat) {r : Nat} (hr : r ≤ 2 * d.n.toNat) :
    (permState d v r).length = d.m.toNat := by
  cases r with
  | zero => rw [permState_zero v hd.n_le, vadd, List.length_zipWith, hv, (hd.subkey 0).length, min_self]
  | succ r =>
    rw [permState_succ v hd.n_le hr, (IsColumn.subRound _ _ hd.m_le _ (hd.subkey _)).length]

/-- The first r sub-rounds lead from state 0 to state r. -/
theorem runCommands_psub {s : State} {k : Slot} {d : Descriptor} (hs : s.slot k = d)
    (hd : RunsPermutation d) (hvalid : d.valid = true) (herr : s.err = false) {v : Column}
    (hv : v.length = d.m.toNat) {r : Nat} (hr : r ≤ 2 * d.n.toNat) :
    runCommands ((List.range r).map fun r => .psub k (BitVec.ofNat 7 r))
        (after (s.setLanes (permState d v 0))) = some (after (s.setLanes (permState d v r))) := by
  induction r with
  | zero => rfl
  | succ r ih =>
    have hindex : (BitVec.ofNat 7 r).toNat = r := by
      rw [BitVec.toNat_ofNat, Nat.mod_eq_of_lt]
      have hn := hd.n_le
      omega
    have hlayer := isLayer_psub (k := k) (n := BitVec.ofNat 7 r) hvalid (hindex.symm ▸ hr)
    rw [hindex] at hlayer
    have hstep := hlayer.next hs hd.m_le (permState_length hd hv (Nat.le_of_succ_le hr))
      (IsColumn.subRound _ _ hd.m_le _ (hd.subkey _)).length
    rw [← permState_succ v hd.n_le hr] at hstep
    rw [List.range_succ, List.map_append, runCommands_append, ih (Nat.le_of_succ_le hr),
      Option.bind_some, List.map_singleton, runCommands_of_exec hstep herr]
    rfl

/-! ### The obligations -/

/-- Settles O35. -/
theorem subkeyLayers : Obligations.SubkeyLayers := by
  intro s k n hs hd hn
  have hrun := ValidDescriptor.runsPermutation hd
  have hlanes := ElementsInv.isColumn hs hrun.m_le
  have hkey := hrun.subkey n.toNat
  obtain ⟨hvalid, -⟩ := hd
  refine ⟨(isLayer_vaddk hvalid hn).lane_values_of_le rfl hrun.m_le (hlanes.vadd hkey).length
      fun j hj => ?_,
    (isLayer_vsubk hvalid hn).lane_values_of_le rfl hrun.m_le (hlanes.vsub hkey).length
      fun j hj => ?_⟩
  · rw [colVal_vadd hlanes hkey hj, colVal_lanes s hj, lane_eq_get, colVal_subkey _ _ hj]
  · rw [colVal_vsub hlanes hkey hj, colVal_lanes s hj, lane_eq_get, colVal_subkey _ _ hj]

/-- Settles O36, for every m: a lane beyond the vector is no lane. -/
theorem sboxLayers : Obligations.SboxLayers := by
  intro s k hvalid
  have hlen (f : Elem → Elem) : ((s.lanes (s.slot k).m.toNat).map f).length =
      min (s.slot k).m.toNat 12 := by simp [State.lanes]
  have hexp : (3 * (P - 1) + 1) / 5 = ALPHA_INV.toNat := by decide
  refine ⟨(isLayer_vpowa hvalid).lane_values rfl (hlen _) fun j hj => ?_,
    (isLayer_vpowai hvalid).lane_values rfl (hlen _) fun j hj => ?_⟩
  · rw [colVal_map_lanes s _ j hj]
    exact pow5_toNat _
  · rw [colVal_map_lanes s _ j hj, hexp]
    exact pow_toNat _ _ alphaInv_lt

/-- Settles O37. -/
theorem mdsLayers : Obligations.MdsLayers := by
  intro s k hvalid hm
  have hvalue (t : Table) (j : Fin 12) (hj : j.val < (s.slot k).m.toNat) :
      colVal (matvec (tableRows (s.slot k).m.toNat t) (s.lanes (s.slot k).m.toNat)) j.val =
        rowTimes (s.slot k).m.toNat t j.val fun c => (s.lane c).toNat := by
    rw [colVal_tableRows hm hj t (lanes_length s hm)]
    exact rowTimes_congr t j.val fun c hc => by rw [colVal_lanes s hc]
  exact ⟨(isLayer_vmds hvalid).lane_values_of_le rfl hm (IsColumn.matvec_tableRows hm _ _).length (hvalue _),
    (isLayer_vmdsi hvalid).lane_values_of_le rfl hm (IsColumn.matvec_tableRows hm _ _).length (hvalue _)⟩

/-- Settles O38. -/
theorem subRounds : Obligations.SubRounds := by
  intro s k n hs hd hn
  have hrun := ValidDescriptor.runsPermutation hd
  have hm := hrun.m_le
  have hlanes := ElementsInv.isColumn hs hm
  have hkey := hrun.subkey (n.toNat + 1)
  obtain ⟨hvalid, -⟩ := hd
  refine ⟨(isLayer_psub hvalid hn).lane_values_of_le rfl hm (IsColumn.subRound _ _ hm _ hkey).length
      fun j hj => ?_,
    (isLayer_psubi hvalid hn).lane_values_of_le rfl hm (IsColumn.subRoundInverse _ _ hm _).length
      fun j hj => ?_⟩
  · rw [colVal_subRound _ _ hm _ hkey hlanes.length hj, colVal_subkey _ _ hj]
    congr 2
    exact rowTimes_congr _ _ fun c hc => by rw [colVal_lanes s hc]
  · rw [colVal_subRoundInverse _ _ hm _ hkey hlanes hj]
    congr 2
    exact rowTimes_congr _ _ fun c hc => by rw [colVal_lanes s hc, colVal_subkey _ _ hc]

/-- Settles O39: the last state of the run is what `permute` answers, the first column of the undoing,
less subkey 0, what `permute_inverse` does. -/
theorem permutation : Obligations.Permutation := by
  intro s k hs hd
  have hrun := ValidDescriptor.runsPermutation hd
  have hlanes := ElementsInv.isColumn hs hrun.m_le
  obtain ⟨hvalid, -⟩ := hd
  have hlast (j : Fin 12) : colVal (permute (s.slot k) (s.lanes (s.slot k).m.toNat)) j.val =
      colVal (permState (s.slot k) (s.lanes (s.slot k).m.toNat) (2 * (s.slot k).n.toNat)) j.val := by
    rw [permute_eq_permState _ hrun.n_le]
  have hfirst (j : Fin 12) (hj : j.val < (s.slot k).m.toNat) :
      colVal (permuteInverse (s.slot k) (s.lanes (s.slot k).m.toNat)) j.val =
        (colVal (undoState (s.slot k) (s.lanes (s.slot k).m.toNat) 0) j.val
          + (P - (tableEntry (s.slot k).k 0 j.val).toNat)) % P := by
    rw [permuteInverse_eq_undoState _ hrun.n_le, colVal_vsub (hlanes.undoState hrun (Nat.zero_le _))
      (hrun.subkey 0) hj, colVal_subkey _ 0 hj]
  obtain ⟨u, hu, hperm⟩ := (isLayer_perm hvalid).lane_values_of_le rfl hrun.m_le
    (hlanes.permute hrun).length fun j _ => hlast j
  obtain ⟨w, hw, hpermi⟩ := (isLayer_permi hvalid).lane_values_of_le rfl hrun.m_le
    (hlanes.permuteInverse hrun).length hfirst
  have hval : ∀ i < (s.slot k).m.toNat, colVal (s.lanes (s.slot k).m.toNat) i = (s.lane i).toNat :=
    fun i hi => colVal_lanes s hi
  exact ⟨⟨_, u, permStates_permState hrun hlanes hval, hu, hperm⟩,
    _, w, undoStates_undoState hrun hlanes hval, hw, hpermi⟩

/-- Settles O40. -/
theorem permutationInvertible : Obligations.PermutationInvertible := by
  intro s k hs hd
  have hprime : Fact P.Prime := ⟨Sys2Proof.Laws.P_prime⟩
  have hrun := ValidDescriptor.runsPermutation hd
  have hlanes := ElementsInv.isColumn hs hrun.m_le
  obtain ⟨hvalid, -⟩ := hd
  exact ⟨(isLayer_perm hvalid).undone (isLayer_permi hvalid) rfl hrun.m_le
      (hlanes.permute hrun).length (permuteInverse_permute hrun hlanes),
    (isLayer_permi hvalid).undone (isLayer_perm hvalid) rfl hrun.m_le
      (hlanes.permuteInverse hrun).length (permute_permuteInverse hrun hlanes)⟩

/-- Settles O41, pair by pair. -/
theorem layersInvertible : Obligations.LayersInvertible := by
  intro s k n n' hs hd hn hn'
  have hprime : Fact P.Prime := ⟨Sys2Proof.Laws.P_prime⟩
  have hrun := ValidDescriptor.runsPermutation hd
  have hm := hrun.m_le
  have hlanes := ElementsInv.isColumn hs hm
  have hkey := hrun.subkey (n.toNat + 1)
  have hkey' := hrun.subkey n'.toNat
  obtain ⟨hvalid, -⟩ := hd
  simp only [List.forall_mem_cons, List.not_mem_nil, false_implies, implies_true, and_true]
  refine ⟨?_, ?_, ?_, ?_, ?_, ?_, ?_, ?_⟩
  · exact (isLayer_vpowa hvalid).undone (isLayer_vpowai hvalid) rfl hm
      (IsColumn.mapSbox .alpha hlanes.length).length (map_sbox_invExp .alpha hlanes.canonical)
  · exact (isLayer_vpowai hvalid).undone (isLayer_vpowa hvalid) rfl hm
      (IsColumn.mapSbox .alphaInv hlanes.length).length (map_sbox_invExp .alphaInv hlanes.canonical)
  · exact (isLayer_vmds hvalid).undone (isLayer_vmdsi hvalid) rfl hm
      (IsColumn.matvec_tableRows hm _ _).length (mdsi_mds hm hrun.mds hlanes)
  · exact (isLayer_vmdsi hvalid).undone (isLayer_vmds hvalid) rfl hm
      (IsColumn.matvec_tableRows hm _ _).length (mds_mdsi hm hrun.mds hlanes)
  · exact (isLayer_vaddk hvalid hn').undone (isLayer_vsubk hvalid hn') rfl hm
      (hlanes.vadd hkey').length (vsub_vadd hlanes hkey')
  · exact (isLayer_vsubk hvalid hn').undone (isLayer_vaddk hvalid hn') rfl hm
      (hlanes.vsub hkey').length (vadd_vsub hlanes hkey')
  · exact (isLayer_psub hvalid hn).undone (isLayer_psubi hvalid hn) rfl hm
      (IsColumn.subRound _ _ hm _ hkey).length (subRoundInverse_subRound _ _ hm hrun.mds hkey hlanes)
  · exact (isLayer_psubi hvalid hn).undone (isLayer_psub hvalid hn) rfl hm
      (IsColumn.subRoundInverse _ _ hm _).length
      (subRound_subRoundInverse _ _ hm hrun.mds hkey hlanes)

/-- Settles O42. -/
theorem permIsItsSubRounds : Obligations.PermIsItsSubRounds := by
  intro s k hd herr
  have hrun := ValidDescriptor.runsPermutation hd
  have hlen := lanes_length s hrun.m_le
  obtain ⟨hvalid, -⟩ := hd
  have hfirst : exec (.vaddk k 0) s =
      .next (after (s.setLanes (permState (s.slot k) (s.lanes (s.slot k).m.toNat) 0))) := by
    rw [permState_zero _ hrun.n_le]
    exact isLayer_vaddk hvalid (Nat.zero_le _) s rfl
  have hperm := isLayer_perm (k := k) hvalid s rfl
  rw [permute_eq_permState _ hrun.n_le] at hperm
  refine ⟨_, hperm, ?_⟩
  rw [runCommands_of_exec hfirst herr]
  exact runCommands_psub rfl hrun hvalid herr hlen le_rfl

end Sys2Proof.Machine
end

section
/-! The other commands of the permutation engine (spec/43_permutation.md R226, R228, R243 to R253): the words
they encode to, the lanes they move, the entries they read, and what they do to an invalid slot. -/

namespace Sys2Proof.Machine

/-! ### Words with unused fields (R95) -/

/-- Format P with the slot alone. -/
theorem encP_slot (op : BitVec 8) (k : Slot) :
    encP op 0#4 k 0#7 0#4 0#4 = op ++ 0#4 ++ bitOfSlot k ++ 0#19 := by
  apply BitVec.eq_of_toNat_eq
  calc (encP op 0#4 k 0#7 0#4 0#4).toNat
      = (op ++ 0#4 ++ bitOfSlot k ++ 0#7 ++ 0#4 ++ 0#8).toNat :=
        append_zeros_toNat (op ++ 0#4 ++ bitOfSlot k ++ 0#7 ++ 0#4) 4 4
    _ = (op ++ 0#4 ++ bitOfSlot k ++ 0#7 ++ 0#12).toNat :=
        append_zeros_toNat (op ++ 0#4 ++ bitOfSlot k ++ 0#7) 4 8
    _ = (op ++ 0#4 ++ bitOfSlot k ++ 0#19).toNat := append_zeros_toNat (op ++ 0#4 ++ bitOfSlot k) 7 12

/-- Format P with a register and an index alone. -/
theorem encP_rd_index (op : BitVec 8) (rd i : BitVec 4) :
    encP op rd .pd0 0#7 i 0#4 = op ++ rd ++ 0#8 ++ i ++ 0#8 := by
  have hbits : op ++ rd ++ 0#1 ++ 0#7 = op ++ rd ++ 0#8 :=
    BitVec.eq_of_toNat_eq (append_zeros_toNat (op ++ rd) 1 7)
  apply BitVec.eq_of_toNat_eq
  calc (encP op rd .pd0 0#7 i 0#4).toNat
      = (op ++ rd ++ 0#1 ++ 0#7 ++ i ++ 0#8).toNat :=
        append_zeros_toNat (op ++ rd ++ 0#1 ++ 0#7 ++ i) 4 4
    _ = (op ++ rd ++ 0#8 ++ i ++ 0#8).toNat := by rw [hbits]

/-! ### Moves (R251 to R253) -/

section Moves

variable {s : State} {r : Reg} {i : BitVec 4}

theorem exec_vld_beyond (h : 12 ≤ i.toNat) :
    exec (.vld i r) s = .next (afterError s .indexOutOfRange) := by
  change execVld i r s = _
  rw [execVld, M_MAX, if_pos h, finish_error]

theorem exec_vst_beyond (h : 12 ≤ i.toNat) :
    exec (.vst r i) s = .next (afterError s .indexOutOfRange) := by
  change execVst r i s = _
  rw [execVst, M_MAX, if_pos h, finish_error]

theorem exec_vld_ok (h : i.toNat < 12) : exec (.vld i r) s =
    .next (after { s with svec := laneWritten s.svec i.toNat (s.reg r) }) := by
  change execVld i r s = _
  rw [execVld, M_MAX, if_neg (not_le.mpr h), State.setLane, finish_ok]

theorem exec_vst_ok (h : i.toNat < 12) :
    exec (.vst r i) s = .next (after (withReg s r (s.lane i.toNat))) := by
  change execVst r i s = _
  rw [execVst, M_MAX, if_neg (not_le.mpr h), withReg_eq, finish_ok]

end Moves

/-! ### Read-outs (R247 to R249) -/

section Reads

variable {s : State} {rd : Reg} {k : Slot} {i j : BitVec 4} (hvalid : (s.slot k).valid = true)
include hvalid

theorem exec_pdrdm_ok (hi : i.toNat < (s.slot k).m.toNat) (hj : j.toNat < (s.slot k).m.toNat) :
    exec (.pdrdm rd k i j) s =
      .next (after (withReg s rd (tableEntry (s.slot k).mds i.toNat j.toNat))) := by
  change execPdrdm rd k i j s = _
  rw [execPdrdm, withSlot_valid _ hvalid, if_neg (by omega), finish_ok, withReg_eq]

theorem exec_pdrdmi_ok (hi : i.toNat < (s.slot k).m.toNat) (hj : j.toNat < (s.slot k).m.toNat) :
    exec (.pdrdmi rd k i j) s =
      .next (after (withReg s rd (tableEntry (s.slot k).mdsi i.toNat j.toNat))) := by
  change execPdrdmi rd k i j s = _
  rw [execPdrdmi, withSlot_valid _ hvalid, if_neg (by omega), finish_ok, withReg_eq]

theorem exec_pdrdk_ok {n : BitVec 7} (hn : n.toNat ≤ 2 * (s.slot k).n.toNat)
    (hi : i.toNat < (s.slot k).m.toNat)
    (hread : (s.slot k).mode = .cipher → s.cfg.pdrdkCipherReadable = true) :
    exec (.pdrdk rd k n i) s =
      .next (after (withReg s rd (tableEntry (s.slot k).k n.toNat i.toNat))) := by
  have hreadable : ¬((s.slot k).mode = .cipher ∧ s.cfg.pdrdkCipherReadable = false) :=
    fun ⟨hmode, hclosed⟩ => Bool.false_ne_true (hclosed.symm.trans (hread hmode))
  change execPdrdk rd k n i s = _
  rw [execPdrdk, withSlot_valid _ hvalid, if_neg hreadable, if_neg (by omega), finish_ok, withReg_eq]

end Reads

/-! ### Slots (R243, R246) -/

theorem tableEntry_replicate (n r c : Nat) :
    tableEntry (Vector.replicate n (Vector.replicate 12 0#256)) r c = 0#256 := by
  have hrow : (Vector.replicate n (Vector.replicate 12 0#256)).toList.getD r
      (Vector.replicate 12 0#256) = Vector.replicate 12 (0#256 : Elem) := by
    rw [Vector.toList_replicate, List.getD_eq_getElem?_getD, List.getElem?_getD_replicate_default_eq]
  rw [tableEntry, hrow, Vector.toList_replicate, List.getD_eq_getElem?_getD,
    List.getElem?_getD_replicate_default_eq]

theorem exec_pdclr (s : State) (k : Slot) :
    exec (.pdclr k) s = .next (after (withNewSlot s k Descriptor.cleared)) := by
  change execPdclr k s = _
  rw [execPdclr, finish_ok, withNewSlot_eq]

/-- A rule that needs a valid slot raises on an invalid one (R243 (6)). -/
theorem finish_withSlot_invalid {s : State} {k : Slot} (h : (s.slot k).valid = false)
    (f : Descriptor → Except ErrKind State) :
    finish s (s.withSlot k f) = .next (afterError s .operationError) := by
  rw [withSlot_invalid f h, finish_error]

/-! ### The obligations -/

/-- Settles O20. -/
theorem mdsTablesAreInverse : Obligations.MdsTablesAreInverse := fun _ _ hm => mdsPair_cauchy hm

/-- Settles O34. -/
theorem vectorMoves : Obligations.VectorMoves := by
  intro s i r
  refine ⟨⟨_, get_replicate 0#256, rfl⟩, fun hi => ⟨?_, ?_⟩,
    fun hi => ⟨exec_vld_beyond hi, exec_vst_beyond hi⟩, by decide, encP_rd_index _ r i,
    encP_rd_index _ r i⟩
  · exact ⟨_, laneWritten_get s.svec i.toNat (s.reg r), exec_vld_ok hi⟩
  · exact ⟨_, fun j hj => hj ▸ lane_eq_get s j, exec_vst_ok hi⟩

/-- Settles O21: the lists of the table are evaluated. -/
theorem roundCountTable : Obligations.RoundCountTable := by
  unfold Obligations.RoundCountTable
  exact ⟨by decide, by decide +kernel⟩

/-- Settles O32. -/
theorem clearSlot : Obligations.ClearSlot := fun s k =>
  ⟨Descriptor.cleared, rfl, rfl, rfl, rfl, rfl,
    fun r c => ⟨tableEntry_replicate 12 r c, tableEntry_replicate 12 r c⟩, tableEntry_replicate 71,
    exec_pdclr s k, encP_slot _ k⟩

/-- Settles O33. -/
theorem descriptorReads : Obligations.DescriptorReads := fun _ _ _ _ _ _ hvalid hi =>
  ⟨fun hj => ⟨exec_pdrdm_ok hvalid hi hj, exec_pdrdmi_ok hvalid hi hj⟩,
    fun hn hread => exec_pdrdk_ok hvalid hn hi hread⟩

/-- Settles O43: each of the commands is the completion of a rule of `withSlot`. -/
theorem invalidSlotRaises : Obligations.InvalidSlotRaises := by
  intro s k rd n i j hinvalid
  have hraises {c : Instr} (hc : ∃ f, exec c s = finish s (s.withSlot k f)) :
      exec c s = .next (afterError s .operationError) := by
    obtain ⟨f, hf⟩ := hc
    rw [hf, finish_withSlot_invalid hinvalid]
  simp only [List.forall_mem_cons, List.not_mem_nil, false_implies, implies_true, and_true]
  refine ⟨?_, ?_, ?_, ?_, ?_, ?_, ?_, ?_, ?_, ?_, ?_, ?_, ?_, ?_⟩ <;> exact hraises ⟨_, rfl⟩

end Sys2Proof.Machine
end

section
/-! The constructions (spec/43_permutation.md R232 to R236, R242 to R245): where the elements of an XOF answer
go, and the descriptor each construction makes of them. -/

namespace Sys2Proof.Machine

/-! ### The elements of an answer (R232) -/

theorem elems_length (n : Nat) (bs : List Byte) : (elems n bs).length = n := by
  induction n generalizing bs with
  | zero => rfl
  | succ n ih => rw [elems, List.length_cons, ih]

/-- Element q is chunk q of the answer, reduced. -/
theorem colVal_elems {n q : Nat} (hq : q < n) (bs : List Byte) :
    colVal (elems n bs) q = chunkValue bs q := by
  induction n generalizing bs q with
  | zero => cases hq
  | succ n ih =>
    cases q with
    | zero => exact wideReduce_toNat (List.length_take_le _ _)
    | succ q =>
      rw [elems, colVal, List.getD_cons_succ, ← colVal, ih (Nat.lt_of_succ_lt_succ hq), chunkValue,
        chunkValue, List.drop_drop, Nat.mul_succ, Nat.add_comm WIDE_BYTES]

/-- What part of the elements a slice of m of them holds. -/
theorem colVal_slice (l : List Elem) (a : Nat) {m i : Nat} (hi : i < m) :
    colVal ((l.drop a).take m) i = colVal l (a + i) := by
  simp [colVal, List.getD_eq_getElem?_getD, hi]

theorem slice_isColumn {l : List Elem} (hl : CanonicalList l) {a m : Nat} (h : a + m ≤ l.length) :
    IsColumn m ((l.drop a).take m) :=
  ⟨by rw [List.length_take, List.length_drop]; omega, (hl.drop a).take m⟩

/-- Column t of a list cut into columns is a slice. -/
theorem getD_columns (m : Nat) {n t : Nat} (ht : t < n) (l : List Elem) :
    (columns m n l).getD t [] = (l.drop (t * m)).take m := by
  induction n generalizing l t with
  | zero => cases ht
  | succ n ih =>
    cases t with
    | zero => rw [columns, Nat.zero_mul, List.drop_zero, List.getD_cons_zero]
    | succ t =>
      rw [columns, List.getD_cons_succ, ih (Nat.lt_of_succ_lt_succ ht), List.drop_drop, Nat.succ_mul,
        Nat.add_comm m]

/-- Entry (t, i) of the columns of an answer. -/
theorem colVal_columns_elems {m n t i total : Nat} (ht : t < n) (hi : i < m) (htotal : n * m ≤ total)
    (bs : List Byte) :
    colVal ((columns m n (elems total bs)).getD t []) i = chunkValue bs (t * m + i) := by
  rw [getD_columns m ht, colVal_slice _ _ hi]
  exact colVal_elems ((index_lt ht hi).trans_le htotal) bs

/-! ### The companion's answer (R75) -/

theorem xofRequest_fail {xof : Xof} {seed : List Byte} {n : Nat} (h : xofAnswer xof seed n = none) :
    xofRequest xof seed n = .error .operationError := by
  rw [xofRequest, h]

theorem xofRequest_ok {xof : Xof} {seed bs : List Byte} {n : Nat}
    (h : xofAnswer xof seed n = some bs) (hlen : bs.length = n) : xofRequest xof seed n = .ok bs := by
  rw [xofRequest, h]
  exact if_pos hlen

/-! ### The hash descriptor (R235, R244) -/

theorem colVal_padTable {n r c : Nat} (hr : r < n) (hc : c < 12) (rows : Rows) :
    (tableEntry (padTable n rows) r c).toNat = colVal (rows.getD r []) c := by
  rw [tableEntry_padTable hr hc, colVal]

theorem hash_request_bytes (m n : Nat) : WIDE_BYTES * (2 * m * n) = 96 * m * n := by
  rw [WIDE_BYTES]; ring

theorem buildHash_fail {xof : Xof} {m cap : Nat}
    (h : xofAnswer xof (hashSeed m cap) (96 * m * roundsHash m cap) = none) :
    buildHash xof m cap = .error .operationError := by
  rw [buildHash, rawConstantsHash, hash_request_bytes, xofRequest_fail h]

/-- The subkeys a hash descriptor gets of an answer. -/
theorem buildHash_ok {xof : Xof} {m cap : Nat} {bs : List Byte}
    (h : xofAnswer xof (hashSeed m cap) (96 * m * roundsHash m cap) = some bs)
    (hlen : bs.length = 96 * m * roundsHash m cap) :
    buildHash xof m cap = .ok (makeDescriptor .hash m cap (roundsHash m cap)
      (List.replicate m 0#256 ::
        columns m (2 * roundsHash m cap) (elems (2 * m * roundsHash m cap) bs))) := by
  rw [buildHash, rawConstantsHash, hash_request_bytes, xofRequest_ok h hlen]

/-- What `makeDescriptor` sets besides the tables, the parameters being in range. -/
theorem makeDescriptor_m (mode : Mode) {m : Nat} (cap n : Nat) (k : List Column) (hm : m ≤ 12) :
    (makeDescriptor mode m cap n k).m.toNat = m := by
  rw [makeDescriptor, BitVec.toNat_ofNat, Nat.mod_eq_of_lt (by omega)]

theorem makeDescriptor_cap (mode : Mode) (m : Nat) {cap : Nat} (n : Nat) (k : List Column)
    (hcap : cap ≤ 12) : (makeDescriptor mode m cap n k).cap.toNat = cap := by
  rw [makeDescriptor, BitVec.toNat_ofNat, Nat.mod_eq_of_lt (by omega)]

/-- The subkey entries of a constructed descriptor. -/
theorem makeDescriptor_subkey (mode : Mode) (m cap n : Nat) (k : List Column) {t i : Nat}
    (ht : t < 71) (hi : i < 12) :
    (tableEntry (makeDescriptor mode m cap n k).k t i).toNat = colVal (k.getD t []) i :=
  colVal_padTable ht hi k

/-- A valid hash descriptor with the subkeys of the answer (R220, R235). -/
theorem ValidDescriptor.hashDescriptor {d : Descriptor} (hd : ValidDescriptor d) {m cap : Nat}
    {bs : List Byte} (hmode : d.mode = .hash) (hm : d.m.toNat = m) (hcap : d.cap.toNat = cap)
    (hkeys : ∀ t < 2 * d.n.toNat, ∀ i < m,
      (tableEntry d.k (t + 1) i).toNat = chunkValue bs (t * m + i)) : HashDescriptor m cap bs d := by
  obtain ⟨hvalid, -, h12, -, ⟨hrounds, -⟩, -, hmds, hsubkeys, hzero⟩ := hd
  subst hm hcap
  exact ⟨hvalid, hmode, rfl, rfl, hrounds hmode, hmds, hsubkeys,
    fun i hi => hzero hmode i (by omega), hkeys⟩

/-- R220, R235: a successful construction is the hash descriptor of the answer. -/
theorem hashDescriptor_of_answer {xof : Xof} {m cap : Nat} {bs : List Byte} (h2 : 2 ≤ m)
    (h12 : m ≤ 12) (h1 : 1 ≤ cap) (hcap : cap < m)
    (h : xofAnswer xof (hashSeed m cap) (96 * m * roundsHash m cap) = some bs)
    (hlen : bs.length = 96 * m * roundsHash m cap) :
    ∃ d, buildHash xof m cap = .ok d ∧ HashDescriptor m cap bs d := by
  have hbuild := buildHash_ok h hlen
  have hvalid := buildHash_valid h2 h12 h1 hcap hbuild
  refine ⟨_, hbuild, ValidDescriptor.hashDescriptor hvalid rfl (makeDescriptor_m _ _ _ _ h12)
    (makeDescriptor_cap _ _ _ _ (by omega)) fun t ht i hi => ?_⟩
  obtain ⟨-, -, -, -, ⟨hrounds, -⟩, h35, -⟩ := hvalid
  rw [makeDescriptor_subkey _ _ _ _ _ (by omega) (by omega), List.getD_cons_succ]
  rw [hrounds rfl, makeDescriptor_m _ _ _ _ h12, makeDescriptor_cap _ _ _ _ (by omega)] at ht
  exact colVal_columns_elems ht hi (le_of_eq (by ring)) bs

section HashCommand

variable {s : State} {k : Slot} {m cap : BitVec 4}

theorem encD_hash (k : Slot) (m cap : BitVec 4) :
    encD 0x20#8 0#4 k 0#1 m cap =
      0x20#8 ++ 0#4 ++ bitOfSlot k ++ 0#7 ++ m ++ cap ++ 0#4 := by
  have hbits : 0x20#8 ++ 0#4 ++ bitOfSlot k ++ 0#1 ++ 0#6 = 0x20#8 ++ 0#4 ++ bitOfSlot k ++ 0#7 :=
    BitVec.eq_of_toNat_eq (append_zeros_toNat (0x20#8 ++ 0#4 ++ bitOfSlot k) 1 6)
  exact congrArg (fun x : BitVec 20 => x ++ m ++ cap ++ 0#4) hbits

theorem cap_eq_zero_iff : cap = 0 ↔ cap.toNat = 0 := BitVec.toNat_inj.symm

theorem exec_pdinitH_range
    (h : m.toNat < 2 ∨ 12 < m.toNat ∨ cap.toNat = 0 ∨ m.toNat ≤ cap.toNat) :
    exec (.pdinitH k m cap) s = .next (afterError s .invalidInput) := by
  change execPdinitH k m cap s = _
  rw [execPdinitH, M_MIN, M_MAX]
  split
  case isTrue => rw [finish_error]
  case isFalse hm =>
    have hcap : cap = 0 ∨ m.toNat ≤ cap.toNat := by
      rw [cap_eq_zero_iff]
      omega
    rw [if_pos hcap, finish_error]

theorem exec_pdinitH (h2 : 2 ≤ m.toNat) (h12 : m.toNat ≤ 12) (h1 : 1 ≤ cap.toNat)
    (hcap : cap.toNat < m.toNat) : exec (.pdinitH k m cap) s =
      finish s ((buildHash s.cfg.xof m.toNat cap.toNat).map (s.installSlot k)) := by
  have hinside : ¬(cap = 0 ∨ m.toNat ≤ cap.toNat) := by
    rw [cap_eq_zero_iff]
    omega
  change execPdinitH k m cap s = _
  rw [execPdinitH, M_MIN, M_MAX, if_neg (by omega), if_neg hinside]
  cases buildHash s.cfg.xof m.toNat cap.toNat <;> rfl

end HashCommand

/-- Settles O30. -/
theorem hashConstruction : Obligations.HashConstruction := by
  intro s k m cap
  refine ⟨encD_hash k m cap, exec_pdinitH_range, fun h2 h12 h1 hcap => ⟨fun hfail => ?_,
    fun bs hbs hlen => ?_⟩⟩
  · rw [exec_pdinitH h2 h12 h1 hcap, buildHash_fail hfail]
    rfl
  · obtain ⟨d, hbuild, hd⟩ := hashDescriptor_of_answer h2 h12 h1 hcap hbs hlen
    refine ⟨d, hd, ?_⟩
    rw [exec_pdinitH h2 h12 h1 hcap, hbuild]
    rfl

/-! ### The raw constants of the cipher mode (R233, R234) -/

/-- One step of the recurrence, `C·r + c`. -/
def recurrenceStep (c : Rows) (cc r : Column) : Column := vadd (matvec c r) cc

theorem getD_recurrence (c : Rows) (cc : Column) {n t : Nat} (ht : t ≤ n) (r : Column) :
    (recurrence c cc n r).getD t [] = (recurrenceStep c cc)^[t] r := by
  induction n generalizing t r with
  | zero =>
    obtain rfl := Nat.le_zero.mp ht
    rfl
  | succ n ih =>
    cases t with
    | zero => rfl
    | succ t => rw [recurrence, List.getD_cons_succ, ih (Nat.le_of_succ_le_succ ht)]; rfl

section Recurrence

variable {m : Nat} {c : Rows} {cc r : Column} (hc : c.length = m) (hcc : IsColumn m cc)
include hc hcc

theorem recurrenceStep_isColumn : IsColumn m (recurrenceStep c cc r) := by
  have hprod := matvec_isColumn c r
  rw [hc] at hprod
  exact hprod.vadd hcc

theorem colVal_recurrenceStep (hr : r.length = m) {i : Nat} (hi : i < m)
    (hrow : (c.getD i []).length = m) : colVal (recurrenceStep c cc r) i =
      (∑ j ∈ Finset.range m, colVal (c.getD i []) j * colVal r j + colVal cc i) % P := by
  have hprod := matvec_isColumn c r
  rw [hc] at hprod
  rw [recurrenceStep, colVal_vadd hprod hcc hi, colVal_matvec (hc.symm ▸ hi) (hrow.trans hr.symm), hr,
    Nat.mod_add_mod]

theorem iterate_recurrenceStep_isColumn (hr : IsColumn m r) (t : Nat) :
    IsColumn m ((recurrenceStep c cc)^[t] r) := by
  cases t with
  | zero => exact hr
  | succ t =>
    rw [Function.iterate_succ_apply']
    exact recurrenceStep_isColumn hc hcc

end Recurrence

/-- The matrix C, r₀ and c of an answer, as `raw_constants_cipher` takes them (R233). -/
def cipherMatrix (m : Nat) (bs : List Byte) : Rows := columns m m (elems (m * m + 2 * m) bs)
/-- See `cipherMatrix`. -/
def cipherStart (m : Nat) (bs : List Byte) : Column :=
  ((elems (m * m + 2 * m) bs).drop (m * m)).take m
/-- See `cipherMatrix`. -/
def cipherConstant (m : Nat) (bs : List Byte) : Column :=
  ((elems (m * m + 2 * m) bs).drop (m * m + m)).take m

section Answer

variable (m : Nat) (bs : List Byte)

theorem cipherStart_isColumn : IsColumn m (cipherStart m bs) :=
  slice_isColumn (elems_canonical _ bs) (by rw [elems_length]; omega)

theorem cipherConstant_isColumn : IsColumn m (cipherConstant m bs) :=
  slice_isColumn (elems_canonical _ bs) (by rw [elems_length]; omega)

theorem cipherRow_isColumn {i : Nat} (hi : i < m) : IsColumn m ((cipherMatrix m bs).getD i []) := by
  have hrows : (i + 1) * m ≤ m * m := Nat.mul_le_mul_right m hi
  rw [cipherMatrix, getD_columns m hi]
  exact slice_isColumn (elems_canonical _ bs) (by rw [elems_length]; rw [Nat.succ_mul] at hrows; omega)

/-- Raw constant t of the cipher mode (R234). -/
def rawConstant (t : Nat) : Column :=
  (recurrenceStep (cipherMatrix m bs) (cipherConstant m bs))^[t] (cipherStart m bs)

theorem rawConstant_isColumn (t : Nat) : IsColumn m (rawConstant m bs t) :=
  iterate_recurrenceStep_isColumn (columns_length m m _) (cipherConstant_isColumn m bs)
    (cipherStart_isColumn m bs) t

/-- R233, R234: the raw constants as integers. -/
theorem rawConstants_rawConstant (n : Nat) :
    RawConstants m bs n fun t => colVal (rawConstant m bs t) := by
  refine ⟨fun i hi => ?_, fun t _ i hi => ?_⟩
  · exact (colVal_slice _ _ hi).trans (colVal_elems (by omega) bs)
  · have hconstant : colVal (cipherConstant m bs) i = chunkValue bs (m * m + m + i) :=
      (colVal_slice _ _ hi).trans (colVal_elems (by omega) bs)
    dsimp only
    have hsquare : (cipherMatrix m bs).length = m := columns_length m m _
    rw [rawConstant, Function.iterate_succ_apply', ← rawConstant,
      colVal_recurrenceStep hsquare (cipherConstant_isColumn m bs)
        (rawConstant_isColumn m bs t).length hi (cipherRow_isColumn m bs hi).length, hconstant]
    congr 2
    refine Finset.sum_congr rfl fun j hj => ?_
    rw [cipherMatrix, colVal_columns_elems hi (Finset.mem_range.mp hj) (Nat.le_add_right _ _)]

/-! ### The determinant of C (R236) -/

/-- The first m·m elements in row-major storage are the rows of C. -/
theorem toRows_elems :
    Matrix.toRows { rows := m, cols := m, data := elems (m * m) bs } = cipherMatrix m bs := by
  refine List.ext_getElem (by simp [Matrix.toRows, cipherMatrix, columns_length]) fun i hi hi' => ?_
  have him : i < m := by simpa [Matrix.toRows] using hi
  have hrow := cipherRow_isColumn m bs him
  rw [List.getD_eq_getElem _ _ hi'] at hrow
  refine column_ext (by rw [hrow.length]; simp [Matrix.toRows]) fun j hj => ?_
  rw [hrow.length] at hj
  have hentry : i * m + j < m * m := index_lt him hj
  have hleft : colVal (elems (m * m) bs) (i * m + j) = chunkValue bs (i * m + j) :=
    colVal_elems hentry bs
  have hright := colVal_columns_elems (total := m * m + 2 * m) him hj (Nat.le_add_right _ _) bs
  rw [← cipherMatrix, List.getD_eq_getElem _ _ hi'] at hright
  rw [hright, ← hleft]
  simp [Matrix.toRows, Matrix.entry, colVal, hj]

theorem det_elems : det { rows := m, cols := m, data := elems (m * m) bs } =
    .ok (detRows m 1#256 (cipherMatrix m bs)) := by
  rw [det_of_square rfl, toRows_elems]

end Answer

/-! ### The cipher descriptor (R242, R245) -/

theorem rawConstantsCipher_fail {xof : Xof} {m n : Nat}
    (h : xofAnswer xof cipherSeed (48 * (m * m + 2 * m)) = none) :
    rawConstantsCipher xof m n = .error .operationError := by
  rw [rawConstantsCipher, WIDE_BYTES, xofRequest_fail h]

section CipherAnswer

variable {xof : Xof} {m : Nat} {bs : List Byte}
  (h : xofAnswer xof cipherSeed (48 * (m * m + 2 * m)) = some bs)
  (hlen : bs.length = 48 * (m * m + 2 * m))
include h hlen

theorem rawConstantsCipher_answer (n : Nat) : rawConstantsCipher xof m n =
    if detRows m 1#256 (cipherMatrix m bs) = 0 then .error .operationError
    else .ok (recurrence (cipherMatrix m bs) (cipherConstant m bs) (2 * n) (cipherStart m bs)) := by
  rw [rawConstantsCipher, WIDE_BYTES, xofRequest_ok h hlen]
  rfl

theorem buildCipher_singular (key : Column)
    (hdet : det { rows := m, cols := m, data := elems (m * m) bs } = .ok 0) :
    buildCipher xof m key = .error .operationError := by
  rw [det_elems, Except.ok.injEq] at hdet
  rw [buildCipher, rawConstantsCipher_answer h hlen, if_pos hdet]

theorem buildCipher_ok (key : Column)
    (hdet : det { rows := m, cols := m, data := elems (m * m) bs } ≠ .ok 0) :
    buildCipher xof m key = .ok (makeDescriptor .cipher m 0 (roundsCipher m)
      (keySchedule (cauchy m) (recurrence (cipherMatrix m bs) (cipherConstant m bs)
        (2 * roundsCipher m) (cipherStart m bs)) key)) := by
  rw [det_elems, Ne, Except.ok.injEq] at hdet
  rw [buildCipher, rawConstantsCipher_answer h hlen, if_neg hdet]

end CipherAnswer

/-- The leading part of the padded Cauchy table is the Cauchy matrix. -/
theorem tableRows_cauchy {m : Nat} (hm : m ≤ 12) : tableRows m (padTable 12 (cauchy m)) = cauchy m := by
  refine List.ext_getElem (by rw [tableRows_length hm, cauchy, List.length_map, List.length_range])
    fun r hr hr' => ?_
  rw [tableRows_length hm] at hr
  have hrow := getD_tableRows hm hr (padTable 12 (cauchy m))
  rw [List.getD_eq_getElem _ _ ((tableRows_length hm _).symm ▸ hr)] at hrow
  have hwidth : ((cauchy m)[r]).length = m := by simp [cauchy]
  rw [hrow]
  refine column_ext ((length_take_row hm _).trans hwidth.symm) fun c hc => ?_
  rw [hwidth] at hc
  rw [colVal_take_row hc]
  change (tableEntry (padTable 12 (cauchy m)) r c).toNat = _
  rw [colVal_padTable (by omega) (by omega), List.getD_eq_getElem _ _ hr']

section KeySchedule

variable {m : Nat} {raw : List Column} {key : Column}

theorem keySchedule_zero (hraw : raw ≠ []) :
    (keySchedule (cauchy m) raw key).getD 0 [] = vadd key (raw.getD 0 []) :=
  permStates_getD_zero .cipher (cauchy m) hraw key

/-- Subkey t + 1 is a sub-round on subkey t with raw constant t + 1 for its subkey (R242). -/
theorem keySchedule_succ (hm : m ≤ 12) {t : Nat} (ht : t + 1 < raw.length) :
    (keySchedule (cauchy m) raw key).getD (t + 1) [] =
      subRound .cipher (tableRows m (padTable 12 (cauchy m))) t (raw.getD (t + 1) [])
        ((keySchedule (cauchy m) raw key).getD t []) := by
  rw [tableRows_cauchy hm]
  exact permStates_getD_succ .cipher (cauchy m) key ht

theorem keySchedule_isColumn (hm : m ≤ 12) (hkey : IsColumn m key)
    (hraw : ∀ t < raw.length, IsColumn m (raw.getD t [])) {t : Nat} (ht : t < raw.length) :
    IsColumn m ((keySchedule (cauchy m) raw key).getD t []) := by
  cases t with
  | zero =>
    rw [keySchedule_zero (List.ne_nil_of_length_pos ht)]
    exact hkey.vadd (hraw 0 ht)
  | succ t =>
    rw [keySchedule_succ hm ht]
    exact IsColumn.subRound _ _ hm _ (hraw (t + 1) ht)

end KeySchedule

/-- The subkeys of an answer and a key (R233, R234, R242). -/
def cipherKeys (m : Nat) (bs : List Byte) (key : Column) : List Column :=
  keySchedule (cauchy m) (recurrence (cipherMatrix m bs) (cipherConstant m bs) (2 * roundsCipher m)
    (cipherStart m bs)) key

/-- The subkeys as integers, from the key and the raw constants (R242). -/
theorem cipherKeys_values {m : Nat} (hm : m ≤ 12) (bs : List Byte) {key : Column}
    (hkey : IsColumn m key) :
    (∀ i < m, colVal ((cipherKeys m bs key).getD 0 []) i =
      (colVal key i + colVal (rawConstant m bs 0) i) % P) ∧
    ∀ t < 2 * roundsCipher m, ∀ i < m, colVal ((cipherKeys m bs key).getD (t + 1) []) i =
      (rowTimes m (padTable 12 (cauchy m)) i
          (fun j => colVal ((cipherKeys m bs key).getD t []) j ^ sboxExponent .cipher t)
        + colVal (rawConstant m bs (t + 1)) i) % P := by
  unfold cipherKeys
  generalize hlist : recurrence (cipherMatrix m bs) (cipherConstant m bs) (2 * roundsCipher m)
    (cipherStart m bs) = raw
  have hlen : raw.length = 2 * roundsCipher m + 1 := hlist ▸ recurrence_length _ _ _ _
  have hget (t : Nat) (ht : t < raw.length) : raw.getD t [] = rawConstant m bs t :=
    hlist ▸ getD_recurrence _ _ (by omega) _
  have hcol (t : Nat) (ht : t < raw.length) : IsColumn m (raw.getD t []) :=
    hget t ht ▸ rawConstant_isColumn m bs t
  refine ⟨fun i hi => ?_, fun t ht i hi => ?_⟩
  · have hzero : 0 < raw.length := by omega
    rw [keySchedule_zero (List.ne_nil_of_length_pos hzero), colVal_vadd hkey (hcol 0 hzero) hi,
      hget 0 hzero]
  · have hsucc : t + 1 < raw.length := by omega
    have hstate := keySchedule_isColumn hm hkey hcol (Nat.lt_of_succ_lt hsucc)
    rw [keySchedule_succ hm hsucc, colVal_subRound _ _ hm _ (hcol _ hsucc) hstate.length hi,
      hget _ hsucc]

/-- A valid cipher descriptor with the tables and the subkeys of the answer and the key (R220, R242). -/
theorem ValidDescriptor.cipherDescriptor {d : Descriptor} (hd : ValidDescriptor d) {m : Nat}
    {bs : List Byte} {key : Column} {val : Nat → Nat} (hkey : IsColumn m key)
    (hval : ∀ i < m, colVal key i = val i) (hmode : d.mode = .cipher) (hm : d.m.toNat = m)
    (hmds : d.mds = padTable 12 (cauchy m))
    (hkeys : ∀ t ≤ 2 * roundsCipher m, ∀ i < m,
      (tableEntry d.k t i).toNat = colVal ((cipherKeys m bs key).getD t []) i) :
    CipherDescriptor m val bs d := by
  obtain ⟨hvalid, -, h12, ⟨-, hcap⟩, ⟨-, hrounds⟩, -, hpair, hpadded, -⟩ := hd
  subst hm
  obtain ⟨hfirst, hnext⟩ := cipherKeys_values h12 bs hkey
  refine ⟨hvalid, hmode, rfl, hcap hmode, hrounds hmode, hpair, hpadded, _,
    rawConstants_rawConstant _ bs _, fun i hi => ?_, fun t ht i hi => ?_⟩
  · rw [hkeys 0 (Nat.zero_le _) i hi, hfirst i hi, hval i hi]
  · rw [hkeys (t + 1) ht i hi, hnext t ht i hi, hmds]
    congr 2
    exact rowTimes_congr _ _ fun c hc => by rw [hkeys t ht.le c hc]

/-- R220: a successful construction is the cipher descriptor of the answer and the key. -/
theorem cipherDescriptor_of_answer {xof : Xof} {m : Nat} {bs : List Byte} {key : Column}
    {val : Nat → Nat} (h2 : 2 ≤ m) (h12 : m ≤ 12) (hkey : IsColumn m key)
    (hval : ∀ i < m, colVal key i = val i)
    (h : xofAnswer xof cipherSeed (48 * (m * m + 2 * m)) = some bs)
    (hlen : bs.length = 48 * (m * m + 2 * m))
    (hdet : det { rows := m, cols := m, data := elems (m * m) bs } ≠ .ok 0) :
    ∃ d, buildCipher xof m key = .ok d ∧ CipherDescriptor m val bs d := by
  have hbuild := buildCipher_ok h hlen key hdet
  have hvalid := buildCipher_valid h2 h12 hkey.canonical hbuild
  have hrounds := roundsCipher_le h2 h12
  refine ⟨_, hbuild, ValidDescriptor.cipherDescriptor hvalid hkey hval rfl
    (makeDescriptor_m _ _ _ _ h12) rfl fun t ht i hi => ?_⟩
  exact makeDescriptor_subkey _ _ _ _ _ (by omega) (by omega)

section CipherCommand

variable {s : State} {k : Slot} {m : BitVec 4} {kb : Reg}

/-- Format D without `cap`. -/
theorem encD_cipher (k : Slot) (m kb : BitVec 4) :
    encD 0x20#8 kb k 1#1 m 0#4 = 0x20#8 ++ kb ++ bitOfSlot k ++ 1#1 ++ 0#6 ++ m ++ 0#8 :=
  BitVec.eq_of_toNat_eq (append_zeros_toNat (0x20#8 ++ kb ++ bitOfSlot k ++ 1#1 ++ 0#6 ++ m) 4 4)

theorem decodeWord_keyWrap (h : 16 < kb.toNat + m.toNat) :
    decodeWord (encode (.pdinitC k m kb)) = .error .keyRange := by
  rw [decodeWord_encode, keyRange, Instr.wellFormed]
  exact if_neg (by simpa using h)

theorem exec_pdinitC_range (h : m.toNat < 2 ∨ 12 < m.toNat) :
    exec (.pdinitC k m kb) s = .next (afterError s .invalidInput) := by
  change execPdinitC k m kb s = _
  rw [execPdinitC, M_MIN, M_MAX, if_pos h, finish_error]

theorem exec_pdinitC (h2 : 2 ≤ m.toNat) (h12 : m.toNat ≤ 12) : exec (.pdinitC k m kb) s =
    finish s ((buildCipher s.cfg.xof m.toNat (s.keyRegs kb m.toNat)).map (s.installSlot k)) := by
  change execPdinitC k m kb s = _
  rw [execPdinitC, M_MIN, M_MAX, if_neg (by omega)]
  cases buildCipher s.cfg.xof m.toNat (s.keyRegs kb m.toNat) <;> rfl

theorem keyRegs_isColumn (hx : CanonicalList s.x.toList) {m : Nat} (h : kb.toNat + m ≤ 16) :
    IsColumn m (s.keyRegs kb m) :=
  slice_isColumn hx (by rwa [Vector.length_toList])

end CipherCommand

/-- Settles O31. -/
theorem cipherConstruction : Obligations.CipherConstruction := by
  intro s k m kb
  refine ⟨encD_cipher k m kb, decodeWord_keyWrap, exec_pdinitC_range, fun h2 h12 => ⟨fun hfail => ?_,
    fun bs hbs hlen => ⟨fun hsingular => ?_, fun hregular hrange hx => ?_⟩⟩⟩
  · rw [exec_pdinitC h2 h12, buildCipher, rawConstantsCipher_fail hfail]
    rfl
  · rw [exec_pdinitC h2 h12, buildCipher_singular hbs hlen _ hsingular]
    rfl
  · obtain ⟨d, hbuild, hd⟩ := cipherDescriptor_of_answer h2 h12 (keyRegs_isColumn hx hrange)
      (fun i hi => colVal_slice _ _ hi) hbs hlen hregular
    refine ⟨d, hd, ?_⟩
    rw [exec_pdinitC h2 h12, hbuild]
    rfl

end Sys2Proof.Machine
end

section
/-! The sponge (spec/44_sponge.md R280 to R286): what its four commands do, and that a run of them is the
digest of the whole message. -/

namespace Sys2Proof.Machine

/-! ### Starting (R283) -/

/-- Format P with a slot and an index alone. -/
theorem encP_slot_index (op : BitVec 8) (k : Slot) (i : BitVec 4) :
    encP op 0#4 k 0#7 i 0#4 = op ++ 0#4 ++ bitOfSlot k ++ 0#7 ++ i ++ 0#8 :=
  BitVec.eq_of_toNat_eq (append_zeros_toNat (op ++ 0#4 ++ bitOfSlot k ++ 0#7 ++ i) 4 4)

/-- The difference a hash slot gives as its rate does not wrap (R27). -/
theorem rate_toNat {d : Descriptor} (h : d.cap.toNat < d.m.toNat) :
    (d.m - d.cap).toNat = d.m.toNat - d.cap.toNat :=
  BitVec.toNat_sub_of_le (BitVec.le_def.mpr h.le)

section Start

variable {s : State} {k : Slot} {dlen : BitVec 4} (hvalid : (s.slot k).valid = true)
include hvalid

theorem exec_hinit_cipher (hmode : (s.slot k).mode = .cipher) :
    exec (.hinit k dlen) s = .next (afterError s .operationError) := by
  change execHinit k dlen s = _
  rw [execHinit, withSlot_valid _ hvalid, hmode, if_pos nofun, finish_error]

theorem exec_hinit_beyond (hmode : (s.slot k).mode = .hash)
    (hdlen : (s.slot k).m.toNat < dlen.toNat) :
    exec (.hinit k dlen) s = .next (afterError s .invalidInput) := by
  change execHinit k dlen s = _
  rw [execHinit, withSlot_valid _ hvalid, if_neg (not_not.mpr hmode), if_pos hdlen, finish_error]

theorem exec_hinit_ok (hmode : (s.slot k).mode = .hash) (hdlen : dlen.toNat ≤ (s.slot k).m.toNat) :
    exec (.hinit k dlen) s = .next (after { s with
      svec := Vector.replicate 12 0#256, hslot := k, hrate := (s.slot k).m - (s.slot k).cap,
      hdlen := dlen, hpos := 0, hph := .absorb }) := by
  change execHinit k dlen s = _
  rw [execHinit, withSlot_valid _ hvalid, if_neg (not_not.mpr hmode), if_neg (not_lt.mpr hdlen),
    finish_ok]
  rfl

end Start

/-- Settles O45. -/
theorem hashStart : Obligations.HashStart := by
  intro s k dlen
  refine ⟨fun hinvalid => finish_withSlot_invalid hinvalid _, fun hvalid => exec_hinit_cipher hvalid,
    fun hvalid => exec_hinit_beyond hvalid, fun hd hmode hdlen => ?_, encP_slot_index _ k dlen⟩
  obtain ⟨hvalid, -, -, ⟨hhash, -⟩, -⟩ := hd
  obtain ⟨-, hcap⟩ := hhash hmode
  exact ⟨_, _, get_replicate 0#256, rate_toNat hcap, exec_hinit_ok hvalid hmode hdlen⟩

/-! ### Squeezing (R286) -/

section Squeezing

variable {s : State} {rd : Reg} {i : BitVec 4}

theorem exec_hsqz_ok (hph : s.hph = .squeeze) (hi : i.toNat < s.hdlen.toNat) :
    exec (.hsqz rd i) s = .next (after (withReg s rd (s.lane i.toNat))) := by
  change execHsqz rd i s = _
  rw [execHsqz, if_neg (not_not.mpr hph), if_neg (not_le.mpr hi), withReg_eq, finish_ok]

theorem exec_hsqz_beyond (hph : s.hph = .squeeze) (hi : s.hdlen.toNat ≤ i.toNat) :
    exec (.hsqz rd i) s = .next (afterError s .indexOutOfRange) := by
  change execHsqz rd i s = _
  rw [execHsqz, if_neg (not_not.mpr hph), if_pos hi, finish_error]

theorem exec_hsqz_phase (hph : s.hph ≠ .squeeze) :
    exec (.hsqz rd i) s = .next (afterError s .operationError) := by
  change execHsqz rd i s = _
  rw [execHsqz, if_pos hph, finish_error]

end Squeezing

/-- Settles O47. -/
theorem squeeze : Obligations.Squeeze := fun _ rd i =>
  ⟨exec_hsqz_ok, exec_hsqz_beyond, exec_hsqz_phase, encP_rd_index _ rd i⟩

/-! ### Absorbing (R284, R285) -/

section Absorbing

variable {s : State} {ra : Reg}

theorem exec_habs_phase (hph : s.hph ≠ .absorb) :
    exec (.habs ra) s = .next (afterError s .operationError) := by
  change execHabs ra s = _
  rw [execHabs, if_pos hph, finish_error]

theorem exec_hfin_phase (hph : s.hph ≠ .absorb) :
    exec .hfin s = .next (afterError s .operationError) := by
  change execHfin s = _
  rw [execHfin, if_pos hph, finish_error]

theorem exec_habs_room (hph : s.hph = .absorb) (hroom : s.hpos.toNat + 1 < s.hrate.toNat) :
    exec (.habs ra) s = .next (after { s.absorbAt (s.reg ra) with hpos := s.hpos + 1 }) := by
  change execHabs ra s = _
  rw [execHabs, if_neg (not_not.mpr hph), if_neg hroom.ne, finish_ok]

theorem exec_habs_full (hph : s.hph = .absorb) (hfull : s.hpos.toNat + 1 = s.hrate.toNat) :
    exec (.habs ra) s =
      .next (after { (s.absorbAt (s.reg ra)).permuteSponge with hpos := 0 }) := by
  change execHabs ra s = _
  rw [execHabs, if_neg (not_not.mpr hph), if_pos hfull, finish_ok]

theorem exec_hfin_absorb (hph : s.hph = .absorb) : exec .hfin s = .next (after
    { (s.absorbAt 1#256).permuteSponge with hpos := 0, hph := .squeeze }) := by
  change execHfin s = _
  rw [execHfin, if_neg (not_not.mpr hph), finish_ok]

/-- While the block has room the next position does not wrap. -/
theorem hpos_succ_toNat (hroom : s.hpos.toNat + 1 < s.hrate.toNat) :
    (s.hpos + 1).toNat = s.hpos.toNat + 1 := by
  have hrate := s.hrate.isLt
  rw [BitVec.toNat_add, show (1 : BitVec 4).toNat = 1 from rfl]
  omega

/-- The integers of the lanes once a is added to lane `HPOS`. -/
theorem absorbAt_get_toNat (hs : CanonicalList s.svec.toList) {a : Elem} (ha : Canonical a)
    (j : Fin 12) : ((s.absorbAt a).svec.get j).toNat =
      if j.val = s.hpos.toNat then ((s.svec.get j).toNat + a.toNat) % P
      else (s.svec.get j).toNat := by
  rw [absorbAt_eq, laneWritten_get]
  split
  case isTrue hj => rw [← hj, lane_eq_get, fadd_toNat (forall_mem_toList_iff.mp hs j) ha]
  case isFalse => rfl

/-- The same for the lanes by number. -/
theorem absorbAt_lane_toNat (hs : CanonicalList s.svec.toList) {a : Elem} (ha : Canonical a)
    {i : Nat} (hi : i < 12) : ((s.absorbAt a).lane i).toNat =
      if i = s.hpos.toNat then ((s.lane i).toNat + a.toNat) % P else (s.lane i).toNat := by
  have h := absorbAt_get_toNat hs ha ⟨i, hi⟩
  rwa [← lane_eq_get, ← lane_eq_get] at h

/-- Adding a to lane `HPOS`, below the rate, and permuting: the integers of the permutation's run end in
the first m lanes, and the lanes beyond them stay. -/
theorem absorbPermute_values (hs : Inv s) (hph : s.hph ≠ .idle) {a : Elem} (ha : Canonical a) :
    ∃ st : Nat → Nat → Nat,
      PermStates (s.slot s.hslot)
        (fun i => if i = s.hpos.toNat then ((s.lane i).toNat + a.toNat) % P else (s.lane i).toNat) st ∧
      ∀ j : Fin 12, ((s.absorbAt a).permuteSponge.svec.get j).toNat =
        if j.val < (s.slot s.hslot).m.toNat then st (2 * (s.slot s.hslot).n.toNat) j.val
        else (s.svec.get j).toNat := by
  have hrun := ValidDescriptor.runsPermutation (hs.spongeSlot hph)
  obtain ⟨-, -, hrate, -, -, hpos⟩ := hs.spongeBusy hph
  have hm := hrun.m_le
  have hlanes : IsColumn (s.slot s.hslot).m.toNat
      ((s.absorbAt a).lanes (s.slot s.hslot).m.toNat) :=
    ⟨lanes_length _ hm, CanonicalList.take (absorbAt_canonical hs.svec ha) _⟩
  refine ⟨_, permStates_permState hrun hlanes fun i hi => ?_, fun j => ?_⟩
  · rw [colVal_lanes _ hi, absorbAt_lane_toNat hs.svec ha (hi.trans_le hm)]
  · have hperm : (s.absorbAt a).permuteSponge.svec = lanesWritten (s.absorbAt a).svec
        (permute (s.slot s.hslot) ((s.absorbAt a).lanes (s.slot s.hslot).m.toNat)) := rfl
    rw [hperm, lanesWritten_toNat, (hlanes.permute hrun).length, permute_eq_permState _ hrun.n_le]
    split
    case isTrue => rfl
    case isFalse hj => rw [absorbAt_get_toNat hs.svec ha, if_neg (by omega)]

end Absorbing

/-- Settles O46. -/
theorem absorbAndFinish : Obligations.AbsorbAndFinish := by
  intro s ra
  refine ⟨encR_rd_ra _ 0#4 ra, by decide, fun hph => ⟨exec_habs_phase hph, exec_hfin_phase hph⟩,
    fun hs hph => ?_⟩
  have hbusy : s.hph ≠ .idle := by rw [hph]; nofun
  refine ⟨fun hroom => ?_, fun hfull => ?_, ?_⟩
  · exact ⟨_, _, hpos_succ_toNat hroom, absorbAt_get_toNat hs.svec (hs.reg ra),
      exec_habs_room hph hroom⟩
  · obtain ⟨st, hst, hu⟩ := absorbPermute_values hs hbusy (hs.reg ra)
    exact ⟨st, _, hst, hu, exec_habs_full hph hfull⟩
  · obtain ⟨st, hst, hu⟩ := absorbPermute_values hs hbusy canonical_one
    exact ⟨st, _, hst, hu, exec_hfin_absorb hph⟩

/-! ### The padded message, block by block (R280) -/

/-- The blocks of the padded message. -/
def paddedBlocks (rate : Nat) (msg : List Elem) : List Column :=
  columns rate ((spongePad rate msg).length / rate) (spongePad rate msg)

theorem digest_eq (d : Descriptor) (rate cap dlen : Nat) (msg : List Elem) :
    digest d rate cap dlen msg =
      ((paddedBlocks rate msg).foldl (absorbBlock d cap) (List.replicate (rate + cap) 0#256)).take dlen :=
  rfl

section Padding

variable {rate : Nat} {block : Column}

/-- A whole block before the message does not change the padding. -/
theorem spongePad_append (h : block.length = rate) (msg : List Elem) :
    spongePad rate (block ++ msg) = block ++ spongePad rate msg := by
  simp [spongePad, h]

/-- Less than a block is padded to one block. -/
theorem spongePad_of_lt (h : block.length < rate) : spongePad rate block =
    block ++ [1#256] ++ List.replicate (rate - (block.length + 1)) 0#256 := by
  have hzeros : (rate - (block.length + 1) % rate) % rate = rate - (block.length + 1) := by
    rcases Nat.lt_or_ge (block.length + 1) rate with hroom | hfull
    · rw [Nat.mod_eq_of_lt hroom, Nat.mod_eq_of_lt (by omega)]
    · rw [show block.length + 1 = rate by omega, Nat.mod_self, Nat.sub_zero, Nat.mod_self, Nat.sub_self]
  simp [spongePad, hzeros]

theorem paddedBlocks_append (hrate : 0 < rate) (h : block.length = rate) (msg : List Elem) :
    paddedBlocks rate (block ++ msg) = block :: paddedBlocks rate msg := by
  rw [paddedBlocks, spongePad_append h, List.length_append, h, Nat.add_div_left _ hrate, columns,
    List.take_left' h, List.drop_left' h]
  rfl

theorem paddedBlocks_of_lt (h : block.length < rate) : paddedBlocks rate block =
    [block ++ [1#256] ++ List.replicate (rate - (block.length + 1)) 0#256] := by
  have hlen : (spongePad rate block).length = rate := by
    rw [spongePad_of_lt h, List.length_append, List.length_append, List.length_replicate,
      List.length_singleton]
    omega
  rw [paddedBlocks, hlen, Nat.div_self (Nat.zero_lt_of_lt h), columns, columns,
    List.take_of_length_le hlen.le, spongePad_of_lt h]

end Padding

/-! ### The sponge between two commands (R282) -/

theorem colVal_append_zeros (v : Column) (n i : Nat) :
    colVal (v ++ List.replicate n 0#256) i = colVal v i := by
  rcases Nat.lt_or_ge i v.length with hi | hi
  · rw [colVal, List.getD_append _ _ _ _ hi, colVal]
  · rw [colVal, List.getD_append_right _ _ _ _ hi, colVal, List.getD_eq_default _ _ hi,
      List.getD_eq_getElem?_getD, List.getElem?_getD_replicate_default_eq]

theorem colVal_append_singleton (v : Column) (a : Elem) (i : Nat) :
    colVal (v ++ [a]) i = if i = v.length then a.toNat else colVal v i := by
  rcases Nat.lt_trichotomy i v.length with hi | rfl | hi
  · rw [colVal, List.getD_append _ _ _ _ hi, if_neg hi.ne, colVal]
  · simp [colVal]
  · rw [if_neg hi.ne', colVal, colVal, List.getD_eq_default _ _ hi.le, List.getD_eq_default _ _
      (by simpa using hi)]

theorem colVal_of_length_le {v : Column} {i : Nat} (h : v.length ≤ i) : colVal v i = 0 := by
  rw [colVal, List.getD_eq_default _ _ h]
  rfl

/-- A hash on descriptor d that is absorbing: `S` was `start` when the current block began, and the
elements of `block` have been added to it since. -/
structure MidBlock (d : Descriptor) (dlen : BitVec 4) (regs : Reg → Elem) (start block : Column)
    (s : State) : Prop where
  inv : Inv s
  err : s.err = false
  phase : s.hph = .absorb
  slot : s.slot s.hslot = d
  hdlen : s.hdlen = dlen
  regs : s.reg = regs
  pos : s.hpos.toNat = block.length
  start_isColumn : IsColumn d.m.toNat start
  block_canonical : CanonicalList block
  lanes : ∀ i < d.m.toNat, (s.lane i).toNat = (colVal start i + colVal block i) % P

theorem lanes_of_zero {s : State} {m : Nat} (h : s.svec = Vector.replicate 12 0#256) (hm : m ≤ 12) :
    s.lanes m = List.replicate m 0#256 := by
  rw [State.lanes, h, Vector.toList_replicate, List.take_replicate, min_eq_left hm]

/-- A new block begins with what the lanes hold. -/
theorem lanes_eq_of_newBlock {v : Column} {m : Nat} (hv : IsColumn m v) {s : State}
    (h : s.lanes m = v) : ∀ i < m, (s.lane i).toNat = (colVal v i + colVal [] i) % P := by
  intro i hi
  rw [colVal_of_length_le (v := []) (Nat.zero_le i), Nat.add_zero, Nat.mod_eq_of_lt (hv.colVal_lt i), ← h,
    colVal_lanes s hi]

section Run

variable {d : Descriptor} {dlen : BitVec 4} {regs : Reg → Elem} {start block : Column} {s : State}

theorem MidBlock.busy (h : MidBlock d dlen regs start block s) : s.hph ≠ .idle := by
  rw [h.phase]
  nofun

theorem MidBlock.runsPermutation (h : MidBlock d dlen regs start block s) : RunsPermutation d :=
  h.slot ▸ ValidDescriptor.runsPermutation (h.inv.spongeSlot h.busy)

/-- The rate, and a position below it (R282). -/
theorem MidBlock.rate (h : MidBlock d dlen regs start block s) :
    s.hrate.toNat = d.m.toNat - d.cap.toNat ∧ block.length < d.m.toNat - d.cap.toNat := by
  obtain ⟨-, -, hrate, -, -, hpos⟩ := h.inv.spongeBusy h.busy
  rw [h.slot] at hrate
  exact ⟨hrate, by rwa [← h.pos, ← hrate]⟩

/-- Adding a to lane `HPOS` adds one more element to the block. -/
theorem MidBlock.lanes_absorbAt (h : MidBlock d dlen regs start block s) {a : Elem}
    (ha : Canonical a) {i : Nat} (hi : i < d.m.toNat) :
    ((s.absorbAt a).lane i).toNat = (colVal start i + colVal (block ++ [a]) i) % P := by
  rw [absorbAt_lane_toNat h.inv.svec ha (hi.trans_le h.runsPermutation.m_le), h.pos,
    colVal_append_singleton, h.lanes i hi]
  split
  case isTrue hend => rw [colVal_of_length_le hend.ge, Nat.add_zero, Nat.mod_add_mod]
  case isFalse => rfl

/-- Adding the last element of a block and permuting is one step of the digest, the zeros the padding
puts after the element included. -/
theorem MidBlock.lanes_absorbPermute (h : MidBlock d dlen regs start block s) {a : Elem}
    (ha : Canonical a) {n : Nat} (hn : block.length + 1 + n = d.m.toNat - d.cap.toNat) :
    (s.absorbAt a).permuteSponge.lanes d.m.toNat =
        absorbBlock d d.cap.toNat start (block ++ [a] ++ List.replicate n 0#256) ∧
      IsColumn d.m.toNat
        (absorbBlock d d.cap.toNat start (block ++ [a] ++ List.replicate n 0#256)) := by
  have hrun := h.runsPermutation
  have hsingle : CanonicalList [a] := List.forall_mem_singleton.mpr ha
  have hwide : IsColumn d.m.toNat
      (block ++ [a] ++ List.replicate n 0#256 ++ List.replicate d.cap.toNat 0#256) :=
    ⟨by simp only [List.length_append, List.length_replicate, List.length_singleton]; omega,
      ((h.block_canonical.append hsingle).append (canonicalList_replicate n)).append
        (canonicalList_replicate _)⟩
  have hsum := h.start_isColumn.vadd hwide
  have hlanes : (s.absorbAt a).lanes d.m.toNat = vadd start
      (block ++ [a] ++ List.replicate n 0#256 ++ List.replicate d.cap.toNat 0#256) := by
    refine column_ext ((lanes_length _ hrun.m_le).trans hsum.length.symm) fun i hi => ?_
    rw [hsum.length] at hi
    rw [colVal_lanes _ hi, h.lanes_absorbAt ha hi, colVal_vadd h.start_isColumn hwide hi, colVal_append_zeros,
      colVal_append_zeros]
  have hperm : (s.absorbAt a).permuteSponge =
      (s.absorbAt a).setLanes (permute d ((s.absorbAt a).lanes d.m.toNat)) := by
    rw [← h.slot]
    rfl
  have hcol : IsColumn d.m.toNat
      (absorbBlock d d.cap.toNat start (block ++ [a] ++ List.replicate n 0#256)) := hsum.permute hrun
  exact ⟨by rw [hperm, hlanes]; exact lanes_setLanes _ hrun.m_le hcol.length, hcol⟩

/-- `HABS` with room left in the block. -/
theorem MidBlock.habs_room (h : MidBlock d dlen regs start block s) (r : Reg)
    (hroom : block.length + 1 < d.m.toNat - d.cap.toNat) :
    ∃ t, exec (.habs r) s = .next t ∧ MidBlock d dlen regs start (block ++ [regs r]) t := by
  have hr : Canonical (regs r) := h.regs ▸ h.inv.reg r
  have hpos : s.hpos.toNat + 1 < s.hrate.toNat := by rwa [h.pos, h.rate.1]
  have hexec := exec_habs_room (ra := r) h.phase hpos
  rw [h.regs] at hexec
  exact ⟨_, hexec, {
    inv := exec_keeps_inv h.inv hexec
    err := h.err
    phase := h.phase
    slot := h.slot
    hdlen := h.hdlen
    regs := h.regs
    pos := by
      rw [List.length_append, ← h.pos]
      exact hpos_succ_toNat hpos
    start_isColumn := h.start_isColumn
    block_canonical := h.block_canonical.append (List.forall_mem_singleton.mpr hr)
    lanes := fun i hi => h.lanes_absorbAt hr hi }⟩

/-- `HABS` of the last element of a block: the next block begins. -/
theorem MidBlock.habs_full (h : MidBlock d dlen regs start block s) (r : Reg)
    (hfull : block.length + 1 = d.m.toNat - d.cap.toNat) :
    ∃ t, exec (.habs r) s = .next t ∧
      MidBlock d dlen regs (absorbBlock d d.cap.toNat start (block ++ [regs r])) [] t := by
  have hr : Canonical (regs r) := h.regs ▸ h.inv.reg r
  have hexec := exec_habs_full (ra := r) h.phase (by rw [h.pos, h.rate.1, hfull])
  rw [h.regs] at hexec
  obtain ⟨hlanes, hcol⟩ := h.lanes_absorbPermute hr (n := 0) hfull
  rw [List.replicate_zero, List.append_nil] at hlanes hcol
  exact ⟨_, hexec, {
    inv := exec_keeps_inv h.inv hexec
    err := h.err
    phase := h.phase
    slot := h.slot
    hdlen := h.hdlen
    regs := h.regs
    pos := rfl
    start_isColumn := hcol
    block_canonical := List.forall_mem_nil _
    lanes := lanes_eq_of_newBlock hcol hlanes }⟩

/-- A hash on descriptor d that gives its digest from the column v. -/
structure Squeezing (d : Descriptor) (dlen : BitVec 4) (v : Column) (s : State) : Prop where
  phase : s.hph = .squeeze
  hdlen : s.hdlen = dlen
  lanes : s.lanes d.m.toNat = v

/-- `HFIN` absorbs the padded last block. -/
theorem MidBlock.hfin (h : MidBlock d dlen regs start block s) :
    ∃ t, runCommands [.hfin] s = some t ∧ Squeezing d dlen
      ((paddedBlocks (d.m.toNat - d.cap.toNat) block).foldl (absorbBlock d d.cap.toNat) start) t := by
  have hlt := h.rate.2
  obtain ⟨hlanes, -⟩ := h.lanes_absorbPermute canonical_one
    (n := d.m.toNat - d.cap.toNat - (block.length + 1)) (by omega)
  refine ⟨_, runCommands_of_exec (exec_hfin_absorb h.phase) h.err, rfl, h.hdlen, ?_⟩
  rw [paddedBlocks_of_lt hlt, List.foldl_cons, List.foldl_nil]
  exact hlanes

/-- Absorbing the rest of a message, by the number of its elements: each goes into the current block or
completes it. -/
theorem MidBlock.run (h : MidBlock d dlen regs start block s) (ras : List Reg) :
    ∃ t, runCommands (ras.map .habs ++ [.hfin]) s = some t ∧ Squeezing d dlen
      ((paddedBlocks (d.m.toNat - d.cap.toNat) (block ++ ras.map regs)).foldl
        (absorbBlock d d.cap.toNat) start) t := by
  induction ras generalizing start block s with
  | nil =>
    rw [List.map_nil, List.map_nil, List.append_nil]
    exact h.hfin
  | cons r ras ih =>
    have hlt := h.rate.2
    have hmsg : block ++ (r :: ras).map regs = (block ++ [regs r]) ++ ras.map regs := by simp
    rw [List.map_cons, List.cons_append, hmsg]
    rcases Nat.lt_or_eq_of_le (Nat.succ_le_of_lt hlt) with hroom | hfull
    · obtain ⟨t, hexec, ht⟩ := h.habs_room r hroom
      rw [runCommands_of_exec hexec ht.err]
      exact ih ht
    · obtain ⟨t, hexec, ht⟩ := h.habs_full r hfull
      have hlen : (block ++ [regs r]).length = d.m.toNat - d.cap.toNat := by
        rw [List.length_append]
        exact hfull
      rw [runCommands_of_exec hexec ht.err, paddedBlocks_append (Nat.zero_lt_of_lt hlt) hlen,
        List.foldl_cons]
      exact ih ht

/-- `HINIT` begins the first block on the zero vector. -/
theorem midBlock_hinit {k : Slot} (hs : Inv s) (herr : s.err = false)
    (hvalid : (s.slot k).valid = true) (hmode : (s.slot k).mode = .hash)
    (hdlen : dlen.toNat ≤ (s.slot k).m.toNat) : ∃ t, exec (.hinit k dlen) s = .next t ∧
      MidBlock (s.slot k) dlen s.reg (List.replicate (s.slot k).m.toNat 0#256) [] t := by
  have hm := (ValidDescriptor.runsPermutation (hs.validSlot hvalid)).m_le
  have hexec := exec_hinit_ok hvalid hmode hdlen
  have hstart : IsColumn (s.slot k).m.toNat (List.replicate (s.slot k).m.toNat 0#256) :=
    ⟨List.length_replicate, canonicalList_replicate _⟩
  exact ⟨_, hexec, {
    inv := exec_keeps_inv hs hexec
    err := herr
    phase := rfl
    slot := rfl
    hdlen := rfl
    regs := rfl
    pos := rfl
    start_isColumn := hstart
    block_canonical := List.forall_mem_nil _
    lanes := lanes_eq_of_newBlock hstart (lanes_of_zero rfl hm) }⟩

/-- `HSQZ` reads an element of the column. -/
theorem Squeezing.hsqz {v : Column} (h : Squeezing d dlen v s) (hdlen : dlen.toNat ≤ d.m.toNat)
    (rd : Reg) {i : BitVec 4} (hi : i.toNat < dlen.toNat) : exec (.hsqz rd i) s =
      .next (after (withReg s rd ((v.take dlen.toNat).getD i.toNat 0#256))) := by
  have hlane : (v.take dlen.toNat).getD i.toNat 0#256 = s.lane i.toNat := by
    have him := hi.trans_le hdlen
    simp [← h.lanes, State.lanes, State.lane, List.getD_eq_getElem?_getD, hi, him]
  rw [hlane]
  exact exec_hsqz_ok h.phase (h.hdlen.symm ▸ hi)

end Run

/-- Settles O48: a run of the commands keeps `MidBlock`, message element by message element. -/
theorem streamingIsDigest : Obligations.StreamingIsDigest := by
  intro s k dlen ras hs herr hvalid hmode hdlen
  obtain ⟨u, hexec, hu⟩ := midBlock_hinit hs herr hvalid hmode hdlen
  obtain ⟨t, hrun, ht⟩ := hu.run ras
  have hcap := hu.rate.2
  have hwidth : (s.slot k).m.toNat - (s.slot k).cap.toNat + (s.slot k).cap.toNat =
      (s.slot k).m.toNat := Nat.sub_add_cancel (by omega)
  refine ⟨t, by rwa [List.cons_append, runCommands_of_exec hexec hu.err], fun rd i hi => ?_⟩
  rw [digest_eq, hwidth]
  exact ht.hsqz hdlen rd hi

end Sys2Proof.Machine
end

section
/-! Loading the key and the nonce (spec/45_cipher.md R301, R302, R311, R312): the descriptors `CKEY` makes
of the secret, which are those `cipher_new` answers, and the message `CNONCE` starts. -/

namespace Sys2Proof.Machine

/-- Format B without a register. -/
theorem encB_len (op : BitVec 8) (len : BitVec 6) : encB op 0#4 len = op ++ 0#18 ++ len := by
  have hbits : op ++ 0#4 ++ 0#14 = op ++ 0#18 := BitVec.eq_of_toNat_eq (append_zeros_toNat op 4 14)
  exact congrArg (fun x : BitVec 26 => x ++ len) hbits

/-! ### The only error of a construction (R233, R235, R345) -/

theorem xofRequest_error {xof : Xof} {seed : List Byte} {n : Nat} {e : ErrKind}
    (h : xofRequest xof seed n = .error e) : e = .operationError := by
  unfold xofRequest at h
  split at h
  case h_1 => cases h; rfl
  case h_2 =>
    split at h
    case isTrue => cases h
    case isFalse => cases h; rfl

theorem buildHash_error {xof : Xof} {m cap : Nat} {e : ErrKind}
    (h : buildHash xof m cap = .error e) : e = .operationError := by
  rw [buildHash, rawConstantsHash] at h
  cases hbs : xofRequest xof (hashSeed m cap) (WIDE_BYTES * (2 * m * roundsHash m cap)) with
  | error e' =>
    rw [hbs] at h
    cases h
    exact xofRequest_error hbs
  | ok bs =>
    rw [hbs] at h
    cases h

/-! ### The derived key (R311) -/

/-- The message (1, Z, 5) is less than one block of the rate 7, so the digest is one permutation. -/
theorem kdfKey_eq (d : Descriptor) (z : Elem) : kdfKey d z =
    (absorbBlock d 5 (List.replicate 12 0#256)
      ([1#256, z, 5#256] ++ [1#256] ++ List.replicate 3 0#256)).take 5 := by
  have hshort : [1#256, z, 5#256].length < 7 := (by decide : 3 < 7)
  rw [kdfKey, digest_eq, paddedBlocks_of_lt hshort]
  rfl

theorem kdfKey_isColumn {d : Descriptor} (hd : ValidDescriptor d) (hm : d.m.toNat = 12) {z : Elem}
    (hz : Canonical z) : IsColumn 5 (kdfKey d z) := by
  have hstart : IsColumn 12 (List.replicate 12 0#256) :=
    ⟨List.length_replicate, canonicalList_replicate 12⟩
  have hblock : IsColumn 12 ([1#256, z, 5#256] ++ [1#256] ++ List.replicate 3 0#256 ++
      List.replicate 5 0#256) := by
    refine ⟨rfl, CanonicalList.append (.append (.append ?_ ?_) (canonicalList_replicate 3))
      (canonicalList_replicate 5)⟩
    · simpa [CanonicalList] using ⟨canonical_one, hz, by decide⟩
    · simpa [CanonicalList] using canonical_one
  have hperm : (absorbBlock d 5 (List.replicate 12 0#256)
      ([1#256, z, 5#256] ++ [1#256] ++ List.replicate 3 0#256)).length = 12 :=
    hm ▸ (IsColumn.permute hd.runsPermutation (hm ▸ hstart.vadd hblock)).length
  exact ⟨by rw [kdfKey_eq, List.length_take, hperm]; rfl, kdfKey_canonical hd.subkeysCanonical hz⟩

/-! ### `CKEY` and `cipher_new` (R301, R312) -/

/-- What `CKEY` leaves of s once both descriptors are made (R301). -/
def keyLoaded (s : State) (d0 d1 : Descriptor) : State :=
  { withSpongeIdle (withCipherIdle s) with
    pd0 := d0, pd1 := d1, svec := Vector.replicate 12 0, dbuf := Vector.replicate 48 0 }

theorem exec_ckey_length {s : State} {len : BitVec 6} (h : len.toNat ≠ 32) :
    exec (.ckey len) s = .next (afterError s .invalidInput) := by
  change execCkey len s = _
  rw [execCkey, SECRET_BYTES, if_pos h, finish_error]

/-- The 32 bytes of `DBUF` always are a secret, of the element Z (R311). -/
theorem exists_secretElem (s : State) : ∃ z, secretElem (s.dbuf.toList.take 32) = .ok z ∧
    z.toNat = leNat (s.dbuf.toList.take 32) % P :=
  secretElem_ok (by simp)

section Secret

variable {s : State} {z : Elem}

/-- `CKEY 32` on a secret: the hash descriptor, then the cipher descriptor of its derived key, then the
loading; the first error ends it. -/
theorem exec_ckey (hz : secretElem (s.dbuf.toList.take 32) = .ok z) :
    exec (.ckey 32) s = finish s ((buildHash s.cfg.xof 12 5).bind fun d0 =>
      (buildCipher s.cfg.xof 5 (kdfKey d0 z)).map (keyLoaded s d0)) := by
  change execCkey 32 s = _
  rw [execCkey, SECRET_BYTES, BLOCK, if_neg (by decide), State.inputBytes, hz]
  cases buildHash s.cfg.xof 12 5 with
  | error e => rfl
  | ok d0 =>
    simp only [Except.bind]
    cases buildCipher s.cfg.xof 5 (kdfKey d0 z) <;> rfl

theorem exec_ckey_ok (hz : secretElem (s.dbuf.toList.take 32) = .ok z) {d0 d1 : Descriptor}
    (h0 : buildHash s.cfg.xof 12 5 = .ok d0) (h1 : buildCipher s.cfg.xof 5 (kdfKey d0 z) = .ok d1) :
    exec (.ckey 32) s = .next (after (keyLoaded s d0 d1)) := by
  rw [exec_ckey hz, h0]
  exact congrArg (fun r => finish s (r.map (keyLoaded s d0))) h1

theorem cipherNew_eq {xof : Xof} {secret : List Byte} (hz : secretElem secret = .ok z) :
    cipherNew xof secret =
      (buildHash xof 12 5).bind fun d0 => buildCipher xof 5 (kdfKey d0 z) := by
  rw [cipherNew, kdf_eq hz]
  cases buildHash xof 12 5 <;> rfl

end Secret

/-- `CKEY 32` in terms of `cipher_new`: it raises its error, and leaves its descriptor in slot 1. -/
theorem exec_ckey_cipherNew (s : State) :
    (∀ e, cipherNew s.cfg.xof (s.dbuf.toList.take 32) = .error e →
      exec (.ckey 32) s = .next (afterError s e)) ∧
    ∀ d, cipherNew s.cfg.xof (s.dbuf.toList.take 32) = .ok d →
      ∃ d0, exec (.ckey 32) s = .next (after (keyLoaded s d0 d)) := by
  obtain ⟨z, hz, -⟩ := exists_secretElem s
  rw [cipherNew_eq hz, exec_ckey hz]
  cases buildHash s.cfg.xof 12 5 with
  | error e0 => exact ⟨fun e h => by cases h; rfl, nofun⟩
  | ok d0 =>
    simp only [Except.bind]
    cases buildCipher s.cfg.xof 5 (kdfKey d0 z) with
    | error e1 => exact ⟨fun e h => by cases h; rfl, nofun⟩
    | ok d1 => exact ⟨nofun, fun d h => by cases h; exact ⟨d0, rfl⟩⟩

theorem cipherNew_of_buildHash_fail {xof : Xof} {secret : List Byte} {z : Elem}
    (hz : secretElem secret = .ok z) (h : buildHash xof 12 5 = .error .operationError) :
    cipherNew xof secret = .error .operationError := by
  rw [cipherNew_eq hz, h]
  rfl

/-- A cipher construction that fails for every key makes `cipher_new` fail, as the hash construction
before it raises the same error. -/
theorem cipherNew_of_buildCipher_fail {xof : Xof} {secret : List Byte} {z : Elem}
    (hz : secretElem secret = .ok z) (h : ∀ key, buildCipher xof 5 key = .error .operationError) :
    cipherNew xof secret = .error .operationError := by
  rw [cipherNew_eq hz]
  cases hhash : buildHash xof 12 5 with
  | error e => rw [buildHash_error hhash]; rfl
  | ok d0 => exact h _

/-- The two requests of `CKEY`: 9216 bytes for 8 rounds of 12 lanes, 1680 for C, r₀ and c of 5 lanes. -/
theorem hash_request_default : 96 * 12 * roundsHash 12 5 = 9216 := by
  rw [show roundsHash 12 5 = 8 by decide]

/-- See `hash_request_default`. -/
theorem cipher_request_default : 48 * (5 * 5 + 2 * 5) = 1680 := by norm_num

/-- Settles O49. -/
theorem keyLoad : Obligations.KeyLoad := by
  intro s len
  obtain ⟨z, hz, hval⟩ := exists_secretElem s
  obtain ⟨hraises, -⟩ := exec_ckey_cipherNew s
  rw [← hash_request_default, ← cipher_request_default]
  refine ⟨encB_len _ len, exec_ckey_length, fun hfail => hraises _ ?_, fun hfail => hraises _ ?_,
    fun b1 hb1 hlen1 hsingular => hraises _ ?_, fun b0 b1 hb0 hlen0 hb1 hlen1 hregular => ?_⟩
  · exact cipherNew_of_buildHash_fail hz (buildHash_fail hfail)
  · refine cipherNew_of_buildCipher_fail hz fun key => ?_
    rw [buildCipher, rawConstantsCipher_fail hfail]
  · exact cipherNew_of_buildCipher_fail hz fun key => buildCipher_singular hb1 hlen1 key hsingular
  · obtain ⟨d0, hbuild0, hd0⟩ := hashDescriptor_of_answer (by decide) (by decide) (by decide)
      (by decide) hb0 hlen0
    have hvalid0 := buildHash_valid (by decide) (by decide) (by decide) (by decide) hbuild0
    have ⟨_, _, hm0, _⟩ := hd0
    have hkey := kdfKey_isColumn hvalid0 hm0 (secretElem_canonical hz)
    obtain ⟨d1, hbuild1, hd1⟩ := cipherDescriptor_of_answer (by decide) (by decide) hkey
      (fun _ _ => rfl) hb1 hlen1 hregular
    exact ⟨d0, d1, z, hval, hd0, hd1, exec_ckey_ok hz hbuild0 hbuild1⟩

/-- Settles O50. -/
theorem keyLoadIsCipherNew : Obligations.KeyLoadIsCipherNew := by
  refine ⟨fun s => ?_, fun xof secret hlen => ?_⟩
  · obtain ⟨hraises, hloads⟩ := exec_ckey_cipherNew s
    refine ⟨fun d hd => ?_, hraises⟩
    obtain ⟨d0, hexec⟩ := hloads d hd
    exact ⟨_, hexec, rfl, rfl⟩
  · have hkdf : kdf xof secret = .error .invalidInput := by rw [kdf, secretElem_error hlen]
    exact ⟨hkdf, by rw [cipherNew, hkdf]⟩

/-! ### `CNONCE` (R302) -/

/-- What `CNONCE` leaves of s for the nonce n (R302). -/
def nonceLoaded (s : State) (n : Elem) : State :=
  { s with nonce := n, ctr := 0, ks := Vector.replicate 5 0, kpos := 5, crdy := true }

/-- Slot 1 is not a cipher descriptor (R300). -/
theorem usable_state {s : State} (h : s.pd1.valid = false ∨ s.pd1.mode = .hash) :
    s.usable = .error .operationError := by
  unfold State.usable
  rcases h with hinvalid | hhash
  · simp [hinvalid]
  · simp [hhash]

/-- Slot 1 is a cipher descriptor of another shape (R300). -/
theorem usable_shape {s : State} (hvalid : s.pd1.valid = true) (hmode : s.pd1.mode = .cipher)
    (hm : s.pd1.m.toNat ≠ 5) : s.usable = .error .dimensionMismatch := by
  simp [State.usable, hvalid, hmode, BLOCK, hm]

/-- 16 bytes are a nonce below 2^128, so below p (R302). -/
theorem exists_nonce (s : State) : ∃ n, fromBytesLe (s.inputBytes 16) = .ok n ∧
    n.toNat = leNat (s.dbuf.toList.take 16) ∧ n.toNat < 2 ^ 128 := by
  have hlen : (s.inputBytes 16).length ≤ 16 := List.length_take_le _ _
  obtain ⟨n, hn, hval⟩ := fromBytesLe_ok (hlen.trans (by decide))
  have hsmall : leNat (s.inputBytes 16) < P :=
    calc leNat (s.inputBytes 16) < 256 ^ (s.inputBytes 16).length := leNat_lt _
      _ ≤ 256 ^ 16 := Nat.pow_le_pow_right (by decide) hlen
      _ < P := by decide
  rw [Nat.mod_eq_of_lt hsmall] at hval
  exact ⟨n, hn, hval, fromBytesLe_lt_of_length hn hlen⟩

section Nonce

variable {s : State} {len : BitVec 6}

theorem exec_cnonce_unusable {e : ErrKind} (h : s.usable = .error e) :
    exec (.cnonce len) s = .next (afterError s e) := by
  change execCnonce len s = _
  rw [execCnonce, h, finish_error]

variable (husable : s.usable = .ok ())
include husable

theorem exec_cnonce_length (hlen : len.toNat ≠ 16) :
    exec (.cnonce len) s = .next (afterError s .invalidInput) := by
  change execCnonce len s = _
  rw [execCnonce, husable, NONCE_BYTES]
  exact congrArg (finish s) (if_pos hlen)

theorem exec_cnonce_ok (hlen : len.toNat = 16) {n : Elem}
    (hn : fromBytesLe (s.inputBytes 16) = .ok n) :
    exec (.cnonce len) s = .next (after (nonceLoaded s n)) := by
  change execCnonce len s = _
  rw [execCnonce, husable, NONCE_BYTES, hn]
  exact congrArg (finish s) (if_neg (not_not.mpr hlen))

end Nonce

/-- Settles O51. -/
theorem nonceLoad : Obligations.NonceLoad := by
  intro s len
  refine ⟨fun hvalid hmode hm hlen => ?_, fun h => exec_cnonce_unusable (usable_state h),
    fun hvalid hmode hm => exec_cnonce_unusable (usable_shape hvalid hmode hm),
    fun hvalid hmode hm => exec_cnonce_length ((usable_ok_iff s).mpr ⟨hvalid, hmode, hm⟩),
    encB_len _ len⟩
  obtain ⟨n, hn, hval, hlt⟩ := exists_nonce s
  exact ⟨n, hval, hlt, exec_cnonce_ok ((usable_ok_iff s).mpr ⟨hvalid, hmode, hm⟩) hlen hn⟩

end Sys2Proof.Machine
end

section
/-! The stream commands (spec/45_cipher.md R300, R303 to R307, R313): the keystream element each takes and
what it does with it, and the place of the element in the keystream. -/

namespace Sys2Proof.Machine

/-! ### The four commands as one -/

/-- Command c takes the next keystream element and then does f, once a nonce is loaded (R304 to R307). -/
def IsStream (s : State) (c : Instr) (f : State → Elem → State) : Prop :=
  exec c s = finish s (if !s.crdy then .error .operationError else s.stream f)

section Commands

variable (s : State) (rd ra : Reg)

theorem isStream_cenc :
    IsStream s (.cenc rd ra) fun t k => withReg t rd (fadd (s.reg ra) k) := rfl

theorem isStream_cdec :
    IsStream s (.cdec rd ra) fun t k => withReg t rd (fsub (s.reg ra) k) := rfl

theorem isStream_cencb : IsStream s (.cencb ra) fun t k => t.setDout (fadd (s.reg ra) k) := rfl

theorem isStream_cdecb {c : Elem} (hc : fromBytesLe (s.dbuf.toList.take 32) = .ok c) :
    IsStream s (.cdecb rd 32) fun t k => withReg t rd (fsub c k) := by
  change execCdecb rd 32 s = _
  rw [execCdecb, ELEM_BYTES, State.inputBytes, hc,
    if_neg (c := (32 : BitVec 6).toNat ≠ 32) (by decide)]
  rfl

/-- The 32 bytes of `DBUF` always are a ciphertext element (R307). -/
theorem exists_ciphertextElem : ∃ c, fromBytesLe (s.dbuf.toList.take 32) = .ok c ∧
    c.toNat = leNat (s.dbuf.toList.take 32) % P :=
  fromBytesLe_ok (List.length_take_le _ _)

end Commands

section Stream

variable {s : State} {c : Instr} {f : State → Elem → State}

theorem IsStream.noNonce (h : IsStream s c f) (hr : s.crdy = false) :
    exec c s = .next (afterError s .operationError) := by
  rw [h, hr]
  rfl

theorem IsStream.error (h : IsStream s c f) (hr : s.crdy = true) {e : ErrKind}
    (hks : s.nextKs = .error e) : exec c s = .next (afterError s e) := by
  rw [h, hr, State.stream, hks]
  rfl

theorem IsStream.next (h : IsStream s c f) (hr : s.crdy = true) {r : KeystreamStep}
    (hks : s.nextKs = .ok r) : exec c s = .next (after (f r.state r.ks)) := by
  rw [h, hr, stream_ok_iff.mpr ⟨r, hks, rfl⟩]
  rfl

end Stream

theorem exec_cdecb_noNonce {s : State} (rd : Reg) (len : BitVec 6) (hr : s.crdy = false) :
    exec (.cdecb rd len) s = .next (afterError s .operationError) := by
  change execCdecb rd len s = _
  rw [execCdecb, hr]
  rfl

theorem exec_cdecb_length {s : State} (rd : Reg) {len : BitVec 6} (hr : s.crdy = true)
    (hlen : len.toNat ≠ 32) : exec (.cdecb rd len) s = .next (afterError s .invalidInput) := by
  change execCdecb rd len s = _
  rw [execCdecb, hr, ELEM_BYTES, if_pos hlen]
  rfl

/-! ### The keystream block (R313) -/

theorem counterBlock_isColumn {nonce : Elem} (hn : Canonical nonce) {j : Nat} (hj : j < P) :
    IsColumn 5 (counterBlock nonce j) := by
  have hindex : Canonical (BitVec.ofNat 256 j) := by
    rwa [Canonical, BitVec.toNat_ofNat, Nat.mod_eq_of_lt (hj.trans (by decide))]
  rw [counterBlock_of_lt hj]
  exact ⟨rfl, by simpa [CanonicalList] using ⟨hn, hindex, canonical_zero⟩⟩

/-- The counter block as integers: nonce, index, zeros. -/
theorem colVal_counterBlock (nonce : Elem) {j : Nat} (hj : j < P) (i : Nat) :
    colVal (counterBlock nonce j) i = if i = 0 then nonce.toNat else if i = 1 then j else 0 := by
  rw [counterBlock_of_lt hj]
  match i with
  | 0 => rfl
  | 1 =>
    change (BitVec.ofNat 256 j).toNat = j
    rw [BitVec.toNat_ofNat, Nat.mod_eq_of_lt (hj.trans (by decide))]
  | i + 2 =>
    change colVal (List.replicate 3 0#256) i = 0
    rw [colVal, List.getD_eq_getElem?_getD, List.getElem?_getD_replicate_default_eq]
    rfl

/-- A counter is below p (R313). -/
theorem ctr_lt_P (ctr : BitVec 64) : ctr.toNat < P := ctr.isLt.trans (by decide)

theorem keystreamBlock_isColumn {d : Descriptor} (hd : ValidDescriptor d) (hm : d.m.toNat = 5)
    {nonce : Elem} (hn : Canonical nonce) (ctr : BitVec 64) :
    IsColumn 5 (keystreamBlock d nonce ctr.toNat) :=
  hm ▸ IsColumn.permute hd.runsPermutation (hm ▸ counterBlock_isColumn hn (ctr_lt_P ctr))

/-- The run of the permutation on the counter block ends in the keystream block (R240, R313). -/
theorem permStates_keystreamBlock {d : Descriptor} (hd : ValidDescriptor d) (hm : d.m.toNat = 5)
    {nonce : Elem} (hn : Canonical nonce) (ctr : BitVec 64) : ∃ st : Nat → Nat → Nat,
      PermStates d (fun i => if i = 0 then nonce.toNat else if i = 1 then ctr.toNat else 0) st ∧
      ∀ i, st (2 * d.n.toNat) i = colVal (keystreamBlock d nonce ctr.toNat) i := by
  have hrun := hd.runsPermutation
  refine ⟨_, permStates_permState hrun (hm ▸ counterBlock_isColumn hn (ctr_lt_P ctr))
    fun i _ => colVal_counterBlock nonce (ctr_lt_P ctr) i, fun i => ?_⟩
  rw [keystreamBlock, permute_eq_permState _ hrun.n_le]

/-- What a vector filled from a list holds at a place. -/
theorem get_ofFn_getD {n : Nat} (l : List Elem) (i : Fin n) :
    (Vector.ofFn fun j : Fin n => l.getD j.val 0#256).get i = l.getD i.val 0#256 := by
  rw [Vector.get_eq_getElem, Vector.getElem_ofFn]

/-- A vector filled from a list of its length holds the list. -/
theorem toList_ofFn_getD {n : Nat} {l : List Elem} (h : l.length = n) :
    (Vector.ofFn fun i : Fin n => l.getD i.val 0#256).toList = l := by
  subst h
  rw [Vector.toList_ofFn]
  exact List.ext_getElem (by simp) fun i _ _ => by simp

/-! ### The next keystream element (R300) -/

theorem Inv.cipherShape {s : State} (h : Inv s) (hr : s.crdy = true) : s.pd1.m.toNat = 5 := by
  obtain ⟨-, -, -, -, hcipher, -⟩ := h
  rw [CipherInv, if_pos hr] at hcipher
  obtain ⟨-, -, hm, -⟩ := hcipher
  exact hm

/-- The counter is exhausted at 2^64 − 1 (R303). -/
theorem ctr_eq_allOnes_iff (ctr : BitVec 64) : ctr = BitVec.allOnes 64 ↔ ctr.toNat = 2 ^ 64 - 1 := by
  rw [← BitVec.toNat_inj, BitVec.toNat_allOnes]

/-- With a nonce and a counter that is not exhausted `next_ks` answers what R300 says. -/
theorem nextKeystream_of_inv {s : State} (hs : Inv s) (hr : s.crdy = true)
    (hctr : s.kpos.toNat = 5 → s.ctr.toNat < 2 ^ 64 - 1) :
    ∃ r, s.nextKs = .ok r ∧ NextKeystream s r.ks r.state ∧ Canonical r.ks := by
  obtain ⟨hvalid, hnonce, -, hkpos⟩ := hs.cipherReady hr
  by_cases h5 : s.kpos.toNat = 5
  · have hlt := hctr h5
    have hks := nextKs_block h5 (mt (ctr_eq_allOnes_iff _).mp hlt.ne)
    obtain ⟨st, hst, hlast⟩ := permStates_keystreamBlock hvalid (hs.cipherShape hr) hnonce s.ctr
    have hfirst := get_ofFn_getD (n := 5) (keystreamBlock s.pd1 s.nonce s.ctr.toNat) 0
    refine ⟨_, hks, .inr ⟨h5, hlt, st, _, hst, fun i => ?_, hfirst.symm, rfl⟩,
      (keystream_canonical hs hr hks).1⟩
    rw [get_ofFn_getD, hlast, colVal]
  · have hks := nextKs_within h5
    have hlt : s.kpos.toNat < 5 := Nat.lt_of_le_of_ne hkpos h5
    refine ⟨_, hks, .inl ⟨hlt, ?_, rfl⟩, (keystream_canonical hs hr hks).1⟩
    simp [Vector.get, hlt]

/-- Settles O52. -/
theorem streamCommands : Obligations.StreamCommands := by
  intro s rd ra len
  obtain ⟨c, hc, hcval⟩ := exists_ciphertextElem s
  have henc := isStream_cenc s rd ra
  have hdec := isStream_cdec s rd ra
  have hencb := isStream_cencb s ra
  have hdecb := isStream_cdecb s rd hc
  simp only [List.forall_mem_cons, List.not_mem_nil, false_implies, implies_true, and_true]
  refine ⟨encR_rd_ra _ rd ra, encR_rd_ra _ rd ra, encR_rd_ra _ 0#4 ra, rfl, fun hr => ?_,
    exec_cdecb_length rd, fun hr h5 hctr => ?_, fun hs hr hctr => ?_⟩
  · exact ⟨henc.noNonce hr, hdec.noNonce hr, hencb.noNonce hr, exec_cdecb_noNonce rd len hr⟩
  · have hks := nextKs_overflow h5 ((ctr_eq_allOnes_iff _).mpr hctr)
    exact ⟨henc.error hr hks, hdec.error hr hks, hencb.error hr hks, hdecb.error hr hks⟩
  · obtain ⟨r, hks, hnext, ha⟩ := nextKeystream_of_inv hs hr hctr
    have hra := hs.reg ra
    have hbytes : leNat (doutBytes (fadd (s.reg ra) r.ks)).toList =
        ((s.reg ra).toNat + r.ks.toNat) % P := by
      rw [doutBytes_toList, leNat_toBytesLe, fadd_toNat hra ha]
    refine ⟨r.ks, r.state, hnext, ⟨_, fadd_toNat hra ha, henc.next hr hks⟩,
      ⟨_, fsub_toNat hra ha, hdec.next hr hks⟩, ⟨_, hbytes, hencb.next hr hks⟩,
      ⟨_, ?_, hdecb.next hr hks⟩⟩
    rw [fsub_toNat (fromBytesLe_canonical hc) ha, hcval]

/-! ### The stream position (R300, R388) -/

section Position

variable {s : State} {n : Nat}

theorem AtStreamPosition.ready (h : AtStreamPosition s n) : s.crdy = true := h.1

/-- At a multiple of 5 the next element begins a block. -/
theorem AtStreamPosition.blockEnd (h : AtStreamPosition s n) (hn : n % 5 = 0) :
    s.kpos.toNat = 5 ∧ s.ctr.toNat = n / 5 := by
  obtain ⟨-, h⟩ := h
  split at h
  case isTrue h0 =>
    obtain ⟨hctr, hkpos⟩ := h
    exact ⟨hkpos, by omega⟩
  case isFalse =>
    obtain ⟨hctr, hkpos, -⟩ := h
    omega

/-- At another position it stands in the current block. -/
theorem AtStreamPosition.withinBlock (h : AtStreamPosition s n) (hn : n % 5 ≠ 0) :
    s.kpos.toNat = n % 5 ∧ s.ctr.toNat = n / 5 + 1 ∧
      s.ks.toList = keystreamBlock s.pd1 s.nonce (n / 5) := by
  obtain ⟨-, h⟩ := h
  have hblock : (n - 1) / 5 = n / 5 := by omega
  rw [if_neg (by omega), hblock] at h
  obtain ⟨hctr, hkpos, hks⟩ := h
  exact ⟨by omega, hctr, hks⟩

/-- After the element at position n: its block is the current one. -/
theorem atStreamPosition_succ (hr : s.crdy = true) (hctr : s.ctr.toNat = n / 5 + 1)
    (hkpos : s.kpos.toNat = n % 5 + 1)
    (hks : s.ks.toList = keystreamBlock s.pd1 s.nonce (n / 5)) : AtStreamPosition s (n + 1) :=
  ⟨hr, by rw [if_neg n.succ_ne_zero]; exact ⟨hctr, hkpos, hks⟩⟩

/-- R313: at position n `next_ks` gives K_{n div 5, n mod 5} and moves on by one. -/
theorem AtStreamPosition.nextKs (hs : Inv s) (h : AtStreamPosition s n)
    (hn : n < 5 * (2 ^ 64 - 1)) : ∃ r, s.nextKs = .ok r ∧ r.ks = keystreamAt s.pd1 s.nonce n ∧
      AtStreamPosition r.state (n + 1) ∧ r.state.pd1 = s.pd1 ∧ r.state.nonce = s.nonce := by
  have hr := h.ready
  by_cases h5 : n % 5 = 0
  · obtain ⟨hkpos, hctr⟩ := h.blockEnd h5
    obtain ⟨hvalid, hnonce, -⟩ := hs.cipherReady hr
    have hblock := keystreamBlock_isColumn hvalid (hs.cipherShape hr) hnonce s.ctr
    have hnext : (s.ctr + 1).toNat = n / 5 + 1 := by
      rw [BitVec.toNat_add, show (1 : BitVec 64).toNat = 1 from rfl]
      omega
    refine ⟨_, nextKs_block hkpos (mt (ctr_eq_allOnes_iff _).mp (by omega)), ?_,
      atStreamPosition_succ hr hnext (by rw [h5]; rfl) ?_, rfl, rfl⟩
    · rw [keystreamAt, BLOCK, h5, hctr]
      rfl
    · rw [← hctr]
      exact toList_ofFn_getD hblock.length
  · obtain ⟨hkpos, hctr, hks⟩ := h.withinBlock h5
    have hnext : (s.kpos + 1).toNat = n % 5 + 1 := by
      rw [BitVec.toNat_add, show (1 : BitVec 3).toNat = 1 from rfl]
      omega
    refine ⟨_, nextKs_within (by omega), ?_, atStreamPosition_succ hr hctr hnext hks, rfl, rfl⟩
    rw [keystreamAt, BLOCK, hks, hkpos]
    rfl

end Position

/-- Settles O53: at position n each stream command takes the element of `AtStreamPosition.nextKs`. -/
theorem streamPosition : Obligations.StreamPosition := by
  refine ⟨fun s hvalid hmode hm => ?_, fun s n rd ra hs h hn => ?_⟩
  · obtain ⟨nonce, hnonce, -⟩ := exists_nonce s
    exact ⟨_, exec_cnonce_ok ((usable_ok_iff s).mpr ⟨hvalid, hmode, hm⟩) rfl hnonce, rfl, rfl, rfl⟩
  · obtain ⟨r, hks, hkey, hpos, hpd1, hnonce⟩ := h.nextKs hs hn
    obtain ⟨c, hc, -⟩ := exists_ciphertextElem s
    have hr := h.ready
    rw [← hkey]
    refine ⟨⟨_, (isStream_cenc s rd ra).next hr hks, hpos, hpd1, hnonce, ?_⟩,
      ⟨_, (isStream_cdec s rd ra).next hr hks, hpos, hpd1, hnonce, ?_⟩,
      ⟨_, (isStream_cencb s ra).next hr hks, hpos, hpd1, hnonce, doutBytes_toList _⟩,
      ⟨_, c, (isStream_cdecb s rd hc).next hr hks, hpos, hpd1, hnonce, hc, ?_⟩⟩ <;>
      exact State.reg_setReg_same _ rd _

end Sys2Proof.Machine
end

section
/-! The cipher on whole messages (spec/45_cipher.md R314 to R316): decryption undoes encryption element by
element, and the element at an index does not depend on those after it. -/

namespace Sys2Proof.Machine

theorem fsub_fadd_cancel {a k : Elem} (ha : Canonical a) (hk : Canonical k) :
    fsub (fadd a k) k = a :=
  List.singleton_inj.mp
    (vsub_vadd (u := [a]) (v := [k]) ⟨rfl, List.forall_mem_singleton.mpr ha⟩
      ⟨rfl, List.forall_mem_singleton.mpr hk⟩)

/-- The bytes of canonical elements are read back (R315). -/
theorem ciphertextElems_toBytesLe {l : List Elem} (hl : CanonicalList l) :
    ciphertextElems (l.map toBytesLe) = .ok l := by
  induction l with
  | nil => rfl
  | cons a l ih =>
    obtain ⟨ha, hl⟩ := List.forall_mem_cons.mp hl
    have hread : ciphertextElem (toBytesLe a) = .ok a := by
      rw [ciphertextElem, ELEM_BYTES, if_neg (not_not.mpr (toBytesLe_length a)), fromBytesLe_toBytesLe ha]
    rw [List.map_cons, ciphertextElems, hread, ih hl]

/-- The first n elements of the ciphertext are the ciphertext of the first n elements (R316). -/
theorem encryptRaw_take (d : Descriptor) (nonce : Elem) (pt : List Elem) (n : Nat) :
    encryptRaw d nonce (pt.take n) = (encryptRaw d nonce pt).take n := by
  refine List.ext_getElem (by simp [encryptRaw]) fun i hi hi' => ?_
  simp [encryptRaw]

section Message

variable {d : Descriptor} (hd : SubkeysCanonical d) {nonce : Elem} (hn : Canonical nonce)
include hd hn

theorem keystreamAt_canonical (t : Nat) : Canonical (keystreamAt d nonce t) :=
  (keystreamBlock_canonical hd hn _).getD _

variable {pt : List Elem} (hpt : CanonicalList pt)
include hpt

theorem encryptRaw_canonical : CanonicalList (encryptRaw d nonce pt) := by
  intro c hc
  obtain ⟨i, hi, rfl⟩ := List.mem_mapIdx.mp hc
  exact fadd_canonical (hpt _ (List.getElem_mem hi)) (keystreamAt_canonical hd hn i)

theorem decryptRaw_encryptRaw : decryptRaw d nonce (encryptRaw d nonce pt) = pt := by
  refine List.ext_getElem (by simp [decryptRaw, encryptRaw]) fun i _ hi => ?_
  have hcancel := fsub_fadd_cancel (hpt _ (List.getElem_mem hi)) (keystreamAt_canonical hd hn i)
  simpa [decryptRaw, encryptRaw] using hcancel

theorem decryptBytes_encryptBytes :
    decryptBytes d nonce (encryptBytes d nonce pt) = .ok pt := by
  rw [decryptBytes, encryptBytes, ciphertextElems_toBytesLe (encryptRaw_canonical hd hn hpt)]
  exact congrArg Except.ok (decryptRaw_encryptRaw hd hn hpt)

end Message

/-- Settles O54. -/
theorem cipherRoundTrip : Obligations.CipherRoundTrip := by
  intro d nonce pt hd _ hn _ hpt
  have hkeys := ValidDescriptor.subkeysCanonical hd
  exact ⟨decryptRaw_encryptRaw hkeys hn hpt, decryptBytes_encryptBytes hkeys hn hpt,
    encryptRaw_take d nonce pt⟩

end Sys2Proof.Machine
end

section
/-! Errors (spec/60_exceptions.md R341, R343, R347, R350): the kinds each shared procedure raises, the
completion of an illegal word, indices beyond their bounds, and that an error is all a raising command
leaves. -/

namespace Sys2Proof.Machine

/-! ### Illegal words (R102, R347) -/

theorem unitTurn_of_refused_word {s : State} {w : Word} {e : DecodeError} (hpending : s.pending = some w)
    (hdecode : decodeWord w = .error e) : unitTurn s = .next (afterError s .illegalCommand) := by
  simp [unitTurn, completeWord, hpending, hdecode, afterError_eq]

/-- Settles O7: the illegal words are those `decodeWord` refuses. -/
theorem illegalWordRaises : Obligations.IllegalWordRaises := by
  refine ⟨rfl, fun s w hpending hillegal => ?_⟩
  obtain ⟨e, hdecode⟩ := decodeWord_error_iff.mpr (illegalWord_iff.mp hillegal)
  exact unitTurn_of_refused_word hpending hdecode

/-! ### Indices beyond their bounds (R343) -/

section Beyond

variable {s : State} {rd : Reg} {k : Slot} {i j : BitVec 4} (hvalid : (s.slot k).valid = true)
include hvalid

theorem exec_pdrdm_beyond (h : (s.slot k).m.toNat ≤ i.toNat ∨ (s.slot k).m.toNat ≤ j.toNat) :
    exec (.pdrdm rd k i j) s = .next (afterError s .indexOutOfRange) := by
  change execPdrdm rd k i j s = _
  rw [execPdrdm, withSlot_valid _ hvalid, if_pos h, finish_error]

theorem exec_pdrdmi_beyond (h : (s.slot k).m.toNat ≤ i.toNat ∨ (s.slot k).m.toNat ≤ j.toNat) :
    exec (.pdrdmi rd k i j) s = .next (afterError s .indexOutOfRange) := by
  change execPdrdmi rd k i j s = _
  rw [execPdrdmi, withSlot_valid _ hvalid, if_pos h, finish_error]

theorem exec_pdrdk_beyond {n : BitVec 7}
    (h : 2 * (s.slot k).n.toNat < n.toNat ∨ (s.slot k).m.toNat ≤ i.toNat)
    (hread : (s.slot k).mode = .cipher → s.cfg.pdrdkCipherReadable = true) :
    exec (.pdrdk rd k n i) s = .next (afterError s .indexOutOfRange) := by
  have hreadable : ¬((s.slot k).mode = .cipher ∧ s.cfg.pdrdkCipherReadable = false) :=
    fun ⟨hmode, hclosed⟩ => Bool.false_ne_true (hclosed.symm.trans (hread hmode))
  change execPdrdk rd k n i s = _
  rw [execPdrdk, withSlot_valid _ hvalid, if_neg hreadable, if_pos h, finish_error]

/-- A layer of the state vector whose index exceeds the bound of its command. -/
theorem exec_layer_beyond {c : Instr} {n : Nat} {bound : Descriptor → Nat}
    {f : Descriptor → Column → Column} (hc : exec c s = finish s (s.mapLanesAt k n bound f))
    (h : bound (s.slot k) < n) : exec c s = .next (afterError s .indexOutOfRange) := by
  rw [hc, State.mapLanesAt, withSlot_valid _ hvalid, if_pos h, finish_error]

end Beyond

/-- Settles O44. -/
theorem indexRaises : Obligations.IndexRaises := by
  refine ⟨fun s k rd n i j hvalid => ⟨fun h => ?entry, exec_pdrdk_beyond hvalid, fun h => ?subkey,
    fun _ h => ?subround⟩, fun s i r h => ⟨exec_vld_beyond h, exec_vst_beyond h⟩,
    fun s i rd => exec_hsqz_beyond⟩
  case entry => exact ⟨exec_pdrdm_beyond hvalid h, exec_pdrdmi_beyond hvalid h⟩
  case subkey => exact ⟨exec_layer_beyond hvalid rfl h, exec_layer_beyond hvalid rfl h⟩
  case subround => exact ⟨exec_layer_beyond hvalid rfl h, exec_layer_beyond hvalid rfl h⟩

/-! ### The errors the shared procedures raise (R342, R344 to R346) -/

theorem fromBytesLe_error {bs : List Byte} {e : ErrKind} (h : fromBytesLe bs = .error e) :
    e = .invalidInput := by
  unfold fromBytesLe at h
  split at h <;> cases h
  rfl

theorem finv_error {a : Elem} {e : ErrKind} (h : finv a = .error e) : e = .invalidInput := by
  unfold finv at h
  split at h <;> cases h
  rfl

/-- A secret of another length than 32 is the one error (R311). -/
theorem invalidInput_of_secretElem {secret : List Byte} {e : ErrKind}
    (h : secretElem secret = .error e) :
    e = .invalidInput := by
  by_cases hlen : secret.length = 32
  · obtain ⟨z, hz, -⟩ := secretElem_ok hlen
    rw [hz] at h
    cases h
  · rw [secretElem_error hlen] at h
    cases h
    rfl

theorem rawConstantsCipher_error {xof : Xof} {m n : Nat} {e : ErrKind}
    (h : rawConstantsCipher xof m n = .error e) : e = .operationError := by
  unfold rawConstantsCipher at h
  split at h
  case h_1 e' hxof =>
    cases h
    exact xofRequest_error hxof
  case h_2 =>
    dsimp only at h
    split at h <;> cases h
    rfl

theorem buildCipher_error {xof : Xof} {m : Nat} {key : Column} {e : ErrKind}
    (h : buildCipher xof m key = .error e) : e = .operationError := by
  unfold buildCipher at h
  split at h
  case h_1 e' hraw =>
    cases h
    exact rawConstantsCipher_error hraw
  case h_2 => cases h

theorem usable_error {s : State} {e : ErrKind} (h : s.usable = .error e) :
    e = .operationError ∨ e = .dimensionMismatch := by
  unfold State.usable at h
  split at h
  case isTrue => cases h; exact .inl rfl
  case isFalse =>
    split at h
    case isTrue => cases h; exact .inl rfl
    case isFalse =>
      split at h <;> cases h
      exact .inr rfl

theorem nextKs_error {s : State} {e : ErrKind} (h : s.nextKs = .error e) : e = .overflow := by
  by_cases h5 : s.kpos.toNat = 5
  · by_cases hc : s.ctr = BitVec.allOnes 64
    · rw [nextKs_overflow h5 hc] at h
      cases h
      rfl
    · rw [nextKs_block h5 hc] at h
      cases h
  · rw [nextKs_within h5] at h
    cases h

theorem nextKs_keeps_errors {s : State} {step : KeystreamStep} (h : s.nextKs = .ok step) :
    step.state.err = s.err ∧ step.state.errcode = s.errcode := by
  rw [nextKs_frame h]
  exact ⟨rfl, rfl⟩

/-! ### Precise rules (R341) -/

/-- What a command's rule may answer in s for its errors to be precise: a state with `ERR` and `ERRCODE`
as they were, or one of the kinds a command can raise. -/
def PreciseRule (s : State) : Except ErrKind State → Prop
  | .ok u => u.err = s.err ∧ u.errcode = s.errcode
  | .error e => e ≠ .illegalCommand

section Rules

variable {s : State} {r : Except ErrKind State} {k : Slot}

theorem PreciseRule.ok {u : State} (herr : u.err = s.err) (hcode : u.errcode = s.errcode) :
    PreciseRule s (.ok u) := ⟨herr, hcode⟩

theorem PreciseRule.error {e kind : ErrKind} (he : e = kind) (hkind : kind ≠ .illegalCommand) :
    PreciseRule s (.error e) := he.trans_ne hkind

/-- An error raised ahead of the rest of the rule. -/
theorem PreciseRule.check {c : Prop} [Decidable c] {e : ErrKind} (he : e ≠ .illegalCommand)
    (hr : PreciseRule s r) : PreciseRule s (if c then .error e else r) := by
  split
  case isTrue => exact he
  case isFalse => exact hr

theorem PreciseRule.withSlot {f : Descriptor → Except ErrKind State} (hf : ∀ d, PreciseRule s (f d)) :
    PreciseRule s (s.withSlot k f) := by
  unfold State.withSlot
  split
  case isTrue => exact hf _
  case isFalse => exact .error rfl nofun

theorem PreciseRule.mapLanes {f : Descriptor → Column → Column} : PreciseRule s (s.mapLanes k f) :=
  .withSlot fun _ => .ok rfl rfl

theorem PreciseRule.mapLanesAt {n : Nat} {bound : Descriptor → Nat}
    {f : Descriptor → Column → Column} : PreciseRule s (s.mapLanesAt k n bound f) :=
  .withSlot fun _ => .check nofun (.ok rfl rfl)

theorem PreciseRule.stream {f : State → Elem → State}
    (hf : ∀ t a, (f t a).err = t.err ∧ (f t a).errcode = t.errcode) : PreciseRule s (s.stream f) := by
  unfold State.stream
  split
  case h_1 e he => exact .error (nextKs_error he) nofun
  case h_2 step hstep =>
    obtain ⟨herr, hcode⟩ := hf step.state step.ks
    obtain ⟨herr', hcode'⟩ := nextKs_keeps_errors hstep
    exact .ok (herr.trans herr') (hcode.trans hcode')

end Rules

/-! ### Precise commands (R341) -/

/-- Command c completes, in s, with what a precise rule answers. -/
def PreciseCommand (s : State) (c : Instr) : Prop :=
  ∃ r, exec c s = finish s r ∧ PreciseRule s r

theorem precise_of_rule {s : State} {c : Instr} {r : Except ErrKind State}
    (hc : exec c s = finish s r) (hr : PreciseRule s r) : PreciseCommand s c :=
  ⟨r, hc, hr⟩

/-- A command with no check. -/
theorem precise_of_assignment {s u : State} {c : Instr} (hc : exec c s = finish s (.ok u))
    (hu : u.err = s.err ∧ u.errcode = s.errcode) : PreciseCommand s c :=
  ⟨.ok u, hc, hu⟩

section Commands

variable (s : State) (rd ra : Reg) (k : Slot)

theorem precise_fld (len : BitVec 6) : PreciseCommand s (.fld rd len) := by
  refine precise_of_rule rfl (.check nofun ?_)
  split
  case h_1 e he => exact .error (fromBytesLe_error he) nofun
  case h_2 => exact .ok rfl rfl

theorem precise_finv : PreciseCommand s (.finv rd ra) := by
  refine precise_of_rule rfl ?_
  split
  case h_1 e he => exact .error (finv_error he) nofun
  case h_2 => exact .ok rfl rfl

theorem precise_pdinitH (m cap : BitVec 4) : PreciseCommand s (.pdinitH k m cap) := by
  refine precise_of_rule rfl (.check nofun (.check nofun ?_))
  split
  case h_1 e he => exact .error (buildHash_error he) nofun
  case h_2 d _ => exact installSlot_errors s k d

theorem precise_pdinitC (m : BitVec 4) (kb : Reg) : PreciseCommand s (.pdinitC k m kb) := by
  refine precise_of_rule rfl (.check nofun ?_)
  split
  case h_1 e he => exact .error (buildCipher_error he) nofun
  case h_2 d _ => exact installSlot_errors s k d

/-- `HABS` ends within the block or at its end (R284). -/
theorem precise_habs : PreciseCommand s (.habs ra) := by
  refine precise_of_rule rfl (.check nofun ?_)
  split
  case isTrue => exact .ok rfl rfl
  case isFalse => exact .ok rfl rfl

theorem precise_ckey (len : BitVec 6) : PreciseCommand s (.ckey len) := by
  refine precise_of_rule rfl (.check nofun ?_)
  split
  case h_1 e he => exact .error (invalidInput_of_secretElem he) nofun
  case h_2 =>
    split
    case h_1 e he => exact .error (buildHash_error he) nofun
    case h_2 =>
      split
      case h_1 e he => exact .error (buildCipher_error he) nofun
      case h_2 => exact .ok rfl rfl

theorem precise_cnonce (len : BitVec 6) : PreciseCommand s (.cnonce len) := by
  refine precise_of_rule rfl ?_
  split
  case h_1 e he => rcases usable_error he with hkind | hkind <;> exact .error hkind nofun
  case h_2 =>
    refine .check nofun ?_
    split
    case h_1 e he => exact .error (fromBytesLe_error he) nofun
    case h_2 => exact .ok rfl rfl

theorem precise_cdecb (len : BitVec 6) : PreciseCommand s (.cdecb rd len) := by
  refine precise_of_rule rfl (.check nofun (.check nofun ?_))
  split
  case h_1 e he => exact .error (fromBytesLe_error he) nofun
  case h_2 => exact .stream fun _ _ => ⟨rfl, rfl⟩

end Commands

/-- The errors of every command are precise: most rules are checks before one assignment. -/
theorem exec_precise (s : State) (c : Instr) : PreciseCommand s c := by
  cases c with
  | nop | fzero | fone | fmov | fldi | fst | feq | fadd | fsub | fneg | fmul | fsqr | fpow5 | fpow
  | fpowu | pdrdai | vzero =>
    refine precise_of_assignment rfl ?_
    exact ⟨rfl, rfl⟩
  | fldw | vld | vst | hfin => exact precise_of_rule rfl (.check nofun (.ok rfl rfl))
  | hsqz => exact precise_of_rule rfl (.check nofun (.check nofun (.ok rfl rfl)))
  | pdrdm | pdrdmi => exact precise_of_rule rfl (.withSlot fun _ => .check nofun (.ok rfl rfl))
  | pdrdk | hinit =>
    exact precise_of_rule rfl (.withSlot fun _ => .check nofun (.check nofun (.ok rfl rfl)))
  | vpowa | vpowai | vmds | vmdsi | perm | permi => exact precise_of_rule rfl .mapLanes
  | vaddk | vsubk | psub | psubi => exact precise_of_rule rfl .mapLanesAt
  | cenc | cdec | cencb =>
    exact precise_of_rule rfl (.check nofun (.stream fun _ _ => ⟨rfl, rfl⟩))
  | pdclr k => exact precise_of_assignment rfl (installSlot_errors s k _)
  | fld rd len => exact precise_fld s rd len
  | finv rd ra => exact precise_finv s rd ra
  | pdinitH k m cap => exact precise_pdinitH s k m cap
  | pdinitC k m kb => exact precise_pdinitC s k m kb
  | habs ra => exact precise_habs s ra
  | ckey len => exact precise_ckey s len
  | cnonce len => exact precise_cnonce s len
  | cdecb rd len => exact precise_cdecb s rd len

/-- Settles O58: the completion of a precise rule is one of the two cases. -/
theorem errorsArePrecise : Obligations.ErrorsArePrecise := by
  refine ⟨rfl, rfl, rfl, rfl, rfl, rfl, fun c s t hclear hexec => ?_⟩
  obtain ⟨r, hrule, hprecise⟩ := exec_precise s c
  rw [hrule] at hexec
  rcases finish_cases hexec with ⟨u, rfl, rfl⟩ | ⟨e, rfl, rfl⟩
  · obtain ⟨herr, hcode⟩ := hprecise
    exact .inr ⟨herr.trans hclear, hcode⟩
  · exact .inl ⟨e, hprecise, rfl⟩

end Sys2Proof.Machine
end
